-- ==== Sys2Proof/Word.lean ====
section
/-! DEFINITION. The bit-vector and digit types every other file uses (00_scope.md R5, R7). -/

namespace Sys2Proof

/-- A wire word (ChipRegisterWord): 16 bits, bit 15 most significant (R5, R7, R45). -/
abbrev Word := BitVec 16

/-- One byte of the documented host's input stream or of the transport's output (R57). -/
abbrev Byte := BitVec 8

/-- The 28-bit field that holds `regValue` (R5, R17). -/
abbrev RegVal := BitVec 28

/-- The 14-bit payload of a wire word, `w[13:0]` (R45). -/
abbrev Payload := BitVec 14

/-- A decimal digit value, 0 to 9 (R22). -/
abbrev Digit := Fin 10

end Sys2Proof
end

