-- ==== Sys2Proof/Config.lean ====
section
/-! DEFINITION. What an implementation fixes: the four numeric constants of 00_scope.md R4 at their
defaults, the help text of 30_encoding.md R61, and the two parameters the spec leaves OPEN (R6),
which have no body, so that nothing can be proved of their value. -/

namespace Sys2Proof

/-- `ACC_BITS`: width of the chip's phase accumulator (R4). -/
def Config.accBits : Nat := 28

/-- `FREF`: reference clock of the chip in Hz (R4). -/
def Config.fref : Nat := 25000000

/-- `RECT_HALF_LIMIT`: Hz value below which Rectangle becomes Rectangle-HalfFrequency (R4). -/
def Config.rectHalfLimit : Nat := 12000000

/-- `REG_MAX`: upper clamp of the register value, `2^27 - 1` (R4). -/
def Config.regMax : Nat := 0x7FFFFFF

/-- `KCONV = 2^ACC_BITS / FREF`, exactly (R4). The claims are stated with it; the machine computes
with the numerator and the denominator (`Operands.lean`). -/
def Config.kconv : Rat := (2 ^ Config.accBits : Rat) / (Config.fref : Rat)

/-- `TRACE_FORMAT : word -> bytes` (R6, R94; OPEN, D13): the text of a debug trace. No body: log entry 13. -/
opaque Config.traceFormat : Word → List Byte

/-- `HELP_EOL` (R6, R112; OPEN, D27): the line terminator of the help text. No body: log entry 13. -/
opaque Config.helpEol : List Byte

/-- The help text, "reproduced verbatim": the seven lines of 30_encoding.md R61. -/
def Config.helpLines : List String :=
  [ "TinyAD9833 Frequency Generator",
    "usage: <number>[STONED]",
    "<number>: 1..8 digits, opt. dot, k, M",
    "S:Sin, T:Tri, O:Off",
    "N: to reg, n*0.093 Hz Sin",
    "E: echo",
    "Z: debug" ]

end Sys2Proof
end

