-- ==== Sys2Proof/Syntax.lean ====
section
/-! DEFINITION. The syntax: what stands on the three ports the machine takes work from (`Input`), and
the instructions they decode to (`Instr`), one constructor per row of spec/opcode_table.json. -/

namespace Sys2Proof

/-- The five waveform types of WF and EWF (10_state.md R11). -/
inductive Waveform where
  | resetMidscale
  | sine
  | triangle
  | rect
  | rectHalf
deriving DecidableEq, Repr

/-- A command on the command port (30_encoding.md R54): the 3-bit `op` field and its operand, whose
shape depends on `op`. `arg` carries the bit operands (`arg[2:0]`, `arg[0]`, `arg[15:0]`), `value` the
operand of representation VALUE_REPR, an exact rational (R6, D3). What an `op` does not use is not
looked at. DESIGN CHOICE: log entry 9. -/
structure Command where
  op    : BitVec 3
  arg   : BitVec 16
  value : Rat
deriving DecidableEq, Repr

/-- One item of work for the machine, as it stands on a port before decoding. The three forms are the
three groups of the opcode table (30_encoding.md R55). -/
inductive Input where
  /-- A command on the block's command port (format CMD, R54). -/
  | command (c : Command)
  /-- A 16-bit wire word handed to the Bit-Link (format WIRE16, R56). DESIGN CHOICE: log entry 8. -/
  | wire (w : Word)
  /-- A byte of the documented host's input stream (format HOSTBYTE, R57). -/
  | byte (b : Byte)
deriving DecidableEq, Repr

/-- The instructions: one constructor per row of spec/opcode_table.json, in the table's order.
A letter command carries its case (`lower`), which the match ignores (mask 0xDF) and the echo does
not ("echoed back verbatim", R108). -/
inductive Instr where
  -- CMD rows: the block operations (R53) and the reserved codes (R59)
  /-- SETWF, with the waveform code `arg[2:0]`; the codes 5 to 7 are reserved (R54, R65). -/
  | setwf (code : BitVec 3)
  /-- SETDBG, with `arg[0]` (R66). -/
  | setdbg (b : Bool)
  /-- ENC_HZ, with a value in Hz (R67). -/
  | encHz (v : Rat)
  /-- ENC_RAW, with a value in register units (R68). -/
  | encRaw (v : Rat)
  /-- CHIP_RESET (R79). -/
  | chipReset
  /-- TX16, with the word to send (R86). -/
  | tx16 (w : Word)
  /-- Reserved operation code 6 (R59). -/
  | reservedOp6
  /-- Reserved operation code 7 (R59). -/
  | reservedOp7
  -- WIRE16 rows: the wire words (R56)
  /-- Control word 0x2000 (R48). -/
  | ctrlSine
  /-- Control word 0x2002 (R48). -/
  | ctrlTriangle
  /-- Control word 0x2020 (R48). -/
  | ctrlRectHalf
  /-- Control word 0x2028 (R48). -/
  | ctrlRect
  /-- Control word 0x2100, the reset word (R48). -/
  | ctrlReset
  /-- Freq0 data word, address 01 (R46). -/
  | freq0Data (d : Payload)
  /-- Freq1 word, address 10 (R56). -/
  | freq1Data (p : Payload)
  /-- Phase word, address 11 (R56). -/
  | phaseData (p : Payload)
  /-- Any control word other than the five exact ones, address 00 (R56). -/
  | ctrlOther (p : Payload)
  -- HOSTBYTE rows: the documented host's bytes (R57)
  | digit0
  | digit1
  | digit2
  | digit3
  | digit4
  | digit5
  | digit6
  | digit7
  | digit8
  | digit9
  /-- `.` (R102). -/
  | point
  /-- `?` (R112). -/
  | help
  /-- `E`, `e` (R113). -/
  | echoE (lower : Bool)
  /-- `K`, `k` (R103). -/
  | kiloK (lower : Bool)
  /-- `M`, `m` (R103). -/
  | megaM (lower : Bool)
  /-- `N`, `n` (R114). -/
  | rawN (lower : Bool)
  /-- `O`, `o` (R115). -/
  | offO (lower : Bool)
  /-- `S`, `s` (R116). -/
  | sineS (lower : Bool)
  /-- `T`, `t` (R117). -/
  | triangleT (lower : Bool)
  /-- `Z`, `z` (R118). -/
  | debugZ (lower : Bool)
  /-- Every byte no earlier HOSTBYTE row matches (R119). -/
  | otherByte (b : Byte)
deriving DecidableEq, Repr

end Sys2Proof
end

