-- ==== Sys2Proof/WellFormed.lean ====
section
/-! DEFINITION. Which terms of `Instr` stand for words of the hardware: the two catch-all rows of the
opcode table take only what no earlier row of their group matches (30_encoding.md R55). Every other
field is as wide as its operand, so it needs no check; a reserved waveform code is a command the
hardware accepts and ignores (R59), so it is well-formed. -/

namespace Sys2Proof

/-- The payloads of the five control words recognised by all 16 bits (R49; address bits 00). -/
def exactControlPayloads : List Payload := [0x2000, 0x2002, 0x2020, 0x2028, 0x2100]

/-- The letters with an effect of their own, upper case (R57). -/
def commandLetters : List Byte := [0x45, 0x4B, 0x4D, 0x4E, 0x4F, 0x53, 0x54, 0x5A]

/-- A byte of one of the first eleven classes of R57: a digit, `.`, `?`, or one of the eight letters
in either case. -/
def isNamedByte (b : Byte) : Bool :=
  (0x30 ≤ b && b ≤ 0x39) || b == 0x2E || b == 0x3F || commandLetters.contains (b &&& 0xDF)

/-- The instruction is one the decoder can give. -/
def wellFormed : Instr → Bool
  | .ctrlOther p => !exactControlPayloads.contains p
  | .otherByte b => !isNamedByte b
  | _ => true

end Sys2Proof
end

