-- ==== Sys2Proof/Decode.lean ====
section
/-! DEFINITION. From what stands on a port to an instruction (`decode`), and back (`encode`); the
opcode table as data (`opcodeTable`), with the rule "the first matching row of the group applies"
(30_encoding.md R55); and the reading of a bare table word (`decodeTableWord`).
`decode` is total and rejects nothing: every operation code, every 16-bit word and every byte falls
under a row of the table (R55, R56, R57, R59). `decodeTableWord` rejects a width no row has. -/

namespace Sys2Proof

/-! ## Decoding -/

/-- A command of the command port (R54, R59). -/
def decodeCommand (c : Command) : Instr :=
  if c.op = 0 then .setwf (c.arg.extractLsb' 0 3)
  else if c.op = 1 then .setdbg (c.arg.getLsbD 0)
  else if c.op = 2 then .encHz c.value
  else if c.op = 3 then .encRaw c.value
  else if c.op = 4 then .chipReset
  else if c.op = 5 then .tx16 c.arg
  else if c.op = 6 then .reservedOp6
  else .reservedOp7

/-- The register-address field `A = w[15:14]` (R45). -/
def addressOf (w : Word) : BitVec 2 := w.extractLsb' 14 2

/-- The payload field `P = w[13:0]` (R45). -/
def payloadOf (w : Word) : Payload := w.extractLsb' 0 14

/-- A wire word: the five exact control words take precedence, then the address bits decide (R55, R56). -/
def decodeWire (w : Word) : Instr :=
  if w = 0x2000 then .ctrlSine
  else if w = 0x2002 then .ctrlTriangle
  else if w = 0x2020 then .ctrlRectHalf
  else if w = 0x2028 then .ctrlRect
  else if w = 0x2100 then .ctrlReset
  else if addressOf w = 1 then .freq0Data (payloadOf w)
  else if addressOf w = 2 then .freq1Data (payloadOf w)
  else if addressOf w = 3 then .phaseData (payloadOf w)
  else .ctrlOther (payloadOf w)

/-- A byte of the documented host's stream (R57): letters match with mask 0xDF, and bit 5 is the case. -/
def decodeByte (b : Byte) : Instr :=
  let u := b &&& 0xDF
  if b = 0x30 then .digit0
  else if b = 0x31 then .digit1
  else if b = 0x32 then .digit2
  else if b = 0x33 then .digit3
  else if b = 0x34 then .digit4
  else if b = 0x35 then .digit5
  else if b = 0x36 then .digit6
  else if b = 0x37 then .digit7
  else if b = 0x38 then .digit8
  else if b = 0x39 then .digit9
  else if b = 0x2E then .point
  else if b = 0x3F then .help
  else if u = 0x45 then .echoE (b.getLsbD 5)
  else if u = 0x4B then .kiloK (b.getLsbD 5)
  else if u = 0x4D then .megaM (b.getLsbD 5)
  else if u = 0x4E then .rawN (b.getLsbD 5)
  else if u = 0x4F then .offO (b.getLsbD 5)
  else if u = 0x53 then .sineS (b.getLsbD 5)
  else if u = 0x54 then .triangleT (b.getLsbD 5)
  else if u = 0x5A then .debugZ (b.getLsbD 5)
  else .otherByte b

/-- What the item on a port asks for. Total. -/
def decode : Input → Instr
  | .command c => decodeCommand c
  | .wire w => decodeWire w
  | .byte b => decodeByte b

/-! ## Encoding -/

/-- A command with a bit operand. -/
def bitCommand (op : BitVec 3) (arg : BitVec 16) : Input := .command ⟨op, arg, 0⟩

/-- A command with a value operand. -/
def valueCommand (op : BitVec 3) (v : Rat) : Input := .command ⟨op, 0, v⟩

/-- The wire word with address bits `a` and payload `p` (R45). -/
def wireWord (a : BitVec 2) (p : Payload) : Word := a ++ p

/-- The byte of a letter command: lower case is upper case with bit 5 set (R57, G1). -/
def letterByte (upper : Byte) (lower : Bool) : Byte := if lower then upper ||| 0x20 else upper

/-- The item that stands for an instruction on its port, from the tables of R46, R48, R54 and R57. -/
def encode : Instr → Input
  | .setwf code => bitCommand 0 (code.setWidth 16)
  | .setdbg b => bitCommand 1 (if b then 1 else 0)
  | .encHz v => valueCommand 2 v
  | .encRaw v => valueCommand 3 v
  | .chipReset => bitCommand 4 0
  | .tx16 w => bitCommand 5 w
  | .reservedOp6 => bitCommand 6 0
  | .reservedOp7 => bitCommand 7 0
  | .ctrlSine => .wire 0x2000
  | .ctrlTriangle => .wire 0x2002
  | .ctrlRectHalf => .wire 0x2020
  | .ctrlRect => .wire 0x2028
  | .ctrlReset => .wire 0x2100
  | .freq0Data d => .wire (wireWord 1 d)
  | .freq1Data p => .wire (wireWord 2 p)
  | .phaseData p => .wire (wireWord 3 p)
  | .ctrlOther p => .wire (wireWord 0 p)
  | .digit0 => .byte 0x30
  | .digit1 => .byte 0x31
  | .digit2 => .byte 0x32
  | .digit3 => .byte 0x33
  | .digit4 => .byte 0x34
  | .digit5 => .byte 0x35
  | .digit6 => .byte 0x36
  | .digit7 => .byte 0x37
  | .digit8 => .byte 0x38
  | .digit9 => .byte 0x39
  | .point => .byte 0x2E
  | .help => .byte 0x3F
  | .echoE lower => .byte (letterByte 0x45 lower)
  | .kiloK lower => .byte (letterByte 0x4B lower)
  | .megaM lower => .byte (letterByte 0x4D lower)
  | .rawN lower => .byte (letterByte 0x4E lower)
  | .offO lower => .byte (letterByte 0x4F lower)
  | .sineS lower => .byte (letterByte 0x53 lower)
  | .triangleT lower => .byte (letterByte 0x54 lower)
  | .debugZ lower => .byte (letterByte 0x5A lower)
  | .otherByte b => .byte b

/-! ## The opcode table -/

/-- The three groups of rows of the opcode table, one per port (R55). -/
inductive Port where
  | cmd
  | wire16
  | hostByte
deriving DecidableEq, Repr

/-- A row of the opcode table: a word of the group matches when its bits under `mask` are `value`. -/
structure Row where
  mnemonic : String
  port     : Port
  value    : Nat
  mask     : Nat
deriving DecidableEq, Repr

/-- The CMD rows of spec/opcode_table.json (match on `op`). -/
def cmdRows : List Row :=
  [ ⟨"SETWF", .cmd, 0x0, 0x7⟩, ⟨"SETDBG", .cmd, 0x1, 0x7⟩, ⟨"ENC_HZ", .cmd, 0x2, 0x7⟩,
    ⟨"ENC_RAW", .cmd, 0x3, 0x7⟩, ⟨"CHIP_RESET", .cmd, 0x4, 0x7⟩, ⟨"TX16", .cmd, 0x5, 0x7⟩,
    ⟨"RESERVED_OP6", .cmd, 0x6, 0x7⟩, ⟨"RESERVED_OP7", .cmd, 0x7, 0x7⟩ ]

/-- The WIRE16 rows. -/
def wireRows : List Row :=
  [ ⟨"CTRL_SINE", .wire16, 0x2000, 0xFFFF⟩, ⟨"CTRL_TRIANGLE", .wire16, 0x2002, 0xFFFF⟩,
    ⟨"CTRL_RECT_HALF", .wire16, 0x2020, 0xFFFF⟩, ⟨"CTRL_RECT", .wire16, 0x2028, 0xFFFF⟩,
    ⟨"CTRL_RESET", .wire16, 0x2100, 0xFFFF⟩, ⟨"FREQ0_DATA", .wire16, 0x4000, 0xC000⟩,
    ⟨"FREQ1_DATA", .wire16, 0x8000, 0xC000⟩, ⟨"PHASE_DATA", .wire16, 0xC000, 0xC000⟩,
    ⟨"CTRL_OTHER", .wire16, 0x0000, 0xC000⟩ ]

/-- The HOSTBYTE rows. -/
def byteRows : List Row :=
  [ ⟨"DIGIT_0", .hostByte, 0x30, 0xFF⟩, ⟨"DIGIT_1", .hostByte, 0x31, 0xFF⟩,
    ⟨"DIGIT_2", .hostByte, 0x32, 0xFF⟩, ⟨"DIGIT_3", .hostByte, 0x33, 0xFF⟩,
    ⟨"DIGIT_4", .hostByte, 0x34, 0xFF⟩, ⟨"DIGIT_5", .hostByte, 0x35, 0xFF⟩,
    ⟨"DIGIT_6", .hostByte, 0x36, 0xFF⟩, ⟨"DIGIT_7", .hostByte, 0x37, 0xFF⟩,
    ⟨"DIGIT_8", .hostByte, 0x38, 0xFF⟩, ⟨"DIGIT_9", .hostByte, 0x39, 0xFF⟩,
    ⟨"POINT", .hostByte, 0x2E, 0xFF⟩, ⟨"HELP", .hostByte, 0x3F, 0xFF⟩,
    ⟨"ECHO_E", .hostByte, 0x45, 0xDF⟩, ⟨"KILO_K", .hostByte, 0x4B, 0xDF⟩,
    ⟨"MEGA_M", .hostByte, 0x4D, 0xDF⟩, ⟨"RAW_N", .hostByte, 0x4E, 0xDF⟩,
    ⟨"OFF_O", .hostByte, 0x4F, 0xDF⟩, ⟨"SINE_S", .hostByte, 0x53, 0xDF⟩,
    ⟨"TRIANGLE_T", .hostByte, 0x54, 0xDF⟩, ⟨"DEBUG_Z", .hostByte, 0x5A, 0xDF⟩,
    ⟨"OTHER_BYTE", .hostByte, 0x00, 0x00⟩ ]

/-- The whole table, in file order. -/
def opcodeTable : List Row := cmdRows ++ wireRows ++ byteRows

/-- The port an item stands on. -/
def Input.port : Input → Port
  | .command _ => .cmd
  | .wire _ => .wire16
  | .byte _ => .hostByte

/-- The bits a row's mask is held against: the `op` field, the word, the byte (R55). -/
def Input.matchBits : Input → Nat
  | .command c => c.op.toNat
  | .wire w => w.toNat
  | .byte b => b.toNat

/-- The row matches the item. -/
def Row.matchesInput (r : Row) (inp : Input) : Bool :=
  r.port == inp.port && inp.matchBits &&& r.mask == r.value

/-- "Within a group, the first matching row in file order is the one that applies" (R55). -/
def tableRow (inp : Input) : Option Row := opcodeTable.find? (·.matchesInput inp)

/-- The table's name of an instruction. -/
def Instr.mnemonic : Instr → String
  | .setwf _ => "SETWF"
  | .setdbg _ => "SETDBG"
  | .encHz _ => "ENC_HZ"
  | .encRaw _ => "ENC_RAW"
  | .chipReset => "CHIP_RESET"
  | .tx16 _ => "TX16"
  | .reservedOp6 => "RESERVED_OP6"
  | .reservedOp7 => "RESERVED_OP7"
  | .ctrlSine => "CTRL_SINE"
  | .ctrlTriangle => "CTRL_TRIANGLE"
  | .ctrlRectHalf => "CTRL_RECT_HALF"
  | .ctrlRect => "CTRL_RECT"
  | .ctrlReset => "CTRL_RESET"
  | .freq0Data _ => "FREQ0_DATA"
  | .freq1Data _ => "FREQ1_DATA"
  | .phaseData _ => "PHASE_DATA"
  | .ctrlOther _ => "CTRL_OTHER"
  | .digit0 => "DIGIT_0"
  | .digit1 => "DIGIT_1"
  | .digit2 => "DIGIT_2"
  | .digit3 => "DIGIT_3"
  | .digit4 => "DIGIT_4"
  | .digit5 => "DIGIT_5"
  | .digit6 => "DIGIT_6"
  | .digit7 => "DIGIT_7"
  | .digit8 => "DIGIT_8"
  | .digit9 => "DIGIT_9"
  | .point => "POINT"
  | .help => "HELP"
  | .echoE _ => "ECHO_E"
  | .kiloK _ => "KILO_K"
  | .megaM _ => "MEGA_M"
  | .rawN _ => "RAW_N"
  | .offO _ => "OFF_O"
  | .sineS _ => "SINE_S"
  | .triangleT _ => "TRIANGLE_T"
  | .debugZ _ => "DEBUG_Z"
  | .otherByte _ => "OTHER_BYTE"

/-! ## A bare table word

The opcode table numbers the words of its three groups without saying which group a word is of, and
the groups overlap. So a bare word is laid on a port by its width. DESIGN CHOICE: log entry 16. -/

/-- The reader of the table gave the rows DIGIT_8 and DIGIT_9 one operand bit each, at 8 and 9, which
the spec's own mask 0xFF does not have (98_reader.md: "the spec's words are right"). Words of these
two forms are the bytes 0x38 and 0x39. -/
def isWideDigit (w : Word) : Bool := w &&& 0xFEFF == 0x0038 || w &&& 0xFDFF == 0x0039

/-- The port item for the table word `w` of `nbits` bits: 16 bits are a wire word (or a digit of
`isWideDigit`); 8 bits are a host byte if a row other than the catch-all names it, else a command's
`op` in bits 2:0 with a zero operand; 24 bits are such a command followed by its 16-bit `arg`; no bits
at all are the byte 0 (the row OTHER_BYTE fixes no bit). -/
def tableInput (nbits w : Nat) : Option Input :=
  if nbits = 16 then
    some (if isWideDigit (BitVec.ofNat 16 w) then .byte (BitVec.ofNat 8 w) else .wire (BitVec.ofNat 16 w))
  else if nbits = 8 then
    some (if isNamedByte (BitVec.ofNat 8 w) then .byte (BitVec.ofNat 8 w) else bitCommand (BitVec.ofNat 3 w) 0)
  else if nbits = 24 then some (bitCommand (BitVec.ofNat 3 w) (BitVec.ofNat 16 (w / 256)))
  else if nbits = 0 then some (.byte 0)
  else none

/-- The instruction the decoder reads from a word numbered as spec/opcode_table.json numbers it. -/
def decodeTableWord (nbits w : Nat) : Option Instr := (tableInput nbits w).map decode

end Sys2Proof
end

