-- ==== Sys2Proof/Machine/State.lean ====
section
/-! DEFINITION. The state of the whole documented system as plain data: the block (10_state.md
sections 1 and 2), the documented host (section 4), the event history (R9, R16), and the outside
world's moves. With it the reasons a step can stop, and the state after reset (R146). -/

namespace Sys2Proof.Machine

/-- The three output lines (R14). -/
inductive Line where
  | data
  | clock
  | fsync
deriving DecidableEq, Repr

/-- An element of the event history (R9): a line set, a debug trace, an echoed byte, the help text. -/
inductive Event where
  | set (l : Line) (level : Bool)
  | trace (w : Word)
  | echo (c : Byte)
  | help
deriving DecidableEq, Repr

/-- PH, the phase inside one bit (R19). -/
inductive Phase where
  | dataPh
  | clkLoPh
  | clkHiPh
deriving DecidableEq, Repr

/-- The transmission in progress: what `word(k)` of R90 is read from. An ENC operation reads its three
words from REGV and EWF; TX16 and CHIP_RESET send one given word. -/
inductive Job where
  | encode
  | single (w : Word)
deriving DecidableEq, Repr

/-- BUF: "exactly 8 decimal digit values", `d0` the least significant (R22). -/
structure DigitBuffer where
  d0 : Digit
  d1 : Digit
  d2 : Digit
  d3 : Digit
  d4 : Digit
  d5 : Digit
  d6 : Digit
  d7 : Digit
deriving DecidableEq, Repr

/-- MULT: one of 1, 1000, 1000000 (R25). -/
inductive Scale where
  | one
  | kilo
  | mega
deriving DecidableEq, Repr

/-- The number MULT stands for (R25). -/
def Scale.toNat : Scale → Nat
  | .one => 1
  | .kilo => 1000
  | .mega => 1000000

/-- The machine's state. The upper-case names are the spec's. -/
structure State where
  /-- WF, the waveform register (R11). -/
  wf : Waveform
  /-- DBG, the debug flag (R12). -/
  dbg : Bool
  /-- DATA, CLOCK and FSYNC, the output lines (R14). -/
  data : Bool
  clock : Bool
  fsync : Bool
  /-- REGV, the latch of `regValue` (R17). -/
  regv : RegVal
  /-- EWF, the effective waveform type (R18). -/
  ewf : Waveform
  /-- SR, the transmitter's shift register (R19). -/
  sr : Word
  /-- BITCNT, bits still to send, 0 to 16 (R19). -/
  bitcnt : Nat
  /-- PH (R19). -/
  ph : Phase
  /-- WIDX, the index of the word inside the operation, 0 to 2 (R19). -/
  widx : Nat
  /-- BUSY (R19) and the operation it is busy with: `none` is BUSY = 0 (log entry 6). -/
  inProgress : Option Job
  /-- The event history, oldest first (R9, R16). -/
  history : List Event
  /-- BUF (R22). -/
  buf : DigitBuffer
  /-- NDIG, saturating at 255 (R23). -/
  ndig : Nat
  /-- DMP, 0 to 256 (R24). -/
  dmp : Nat
  /-- MULT (R25). -/
  mult : Scale
  /-- DIV, held as the exponent `e` of `10^e` (R25). -/
  divExp : Nat
  /-- ECHO (R26). -/
  echo : Bool
  /-- The model's own: the work that waits on the ports, in the order the host issues it (log entry 1). -/
  inputs : List Input
  /-- The model's own: when the reset input will be asserted, each entry counting the transitions
  before it (log entry 3). Empty: it is never asserted. -/
  resetPlan : List Nat
deriving DecidableEq, Repr

/-- DIV (R25). -/
def State.div (s : State) : Nat := 10 ^ s.divExp

/-- Why the machine would stop with a fault: never. The block "raises no synchronous exception" (R130)
and has no stuck or faulted state (R136), so this type has no constructor. -/
inductive Fault where
deriving DecidableEq, Repr

/-- Why the model would refuse. -/
inductive Refusal where
  /-- Raised by an arm of `exec` whose instruction has no meaning yet; no arm is left that raises it.
  Safe: the machine stops where the hardware goes on. -/
  | notModelled (mnemonic : String)
deriving DecidableEq, Repr

/-- BUF with all eight slots 0 (R22). -/
def DigitBuffer.zero : DigitBuffer := ⟨0, 0, 0, 0, 0, 0, 0, 0⟩

/-- The state after reset (R146). The spec leaves REGV, EWF and SR unspecified: DESIGN CHOICE, log
entry 4. Nothing waits on the ports: log entry 1. -/
def State.reset : State where
  wf := .resetMidscale
  dbg := false
  data := false
  clock := true
  fsync := true
  regv := 0
  ewf := .resetMidscale
  sr := 0
  bitcnt := 0
  ph := .dataPh
  widx := 0
  inProgress := none
  history := []
  buf := DigitBuffer.zero
  ndig := 0
  dmp := 0
  mult := .one
  divExp := 0
  echo := true
  inputs := []
  resetPlan := []

end Sys2Proof.Machine
end

