-- ==== Sys2Proof/Machine/Flags.lean ====
section
/-! DEFINITION. The block has no flags or condition codes (10_state.md R21): no operation computes one,
and the clamp leaves no trace. What remains is the status the sequencer itself reads: BUSY, and whether
a frame is open. -/

namespace Sys2Proof.Machine

/-- BUSY: "1 from the acceptance of an operation to its completion" (R19). -/
def State.busy (s : State) : Bool := s.inProgress.isSome

/-- A frame is open while FSYNC is low (R90). -/
def State.frameOpen (s : State) : Bool := !s.fsync

end Sys2Proof.Machine
end

