-- ==== Sys2Proof/Machine/Operands.lean ====
section
/-! DEFINITION. The operand forms and the arithmetic on them: waveform codes (30_encoding.md R54),
the conversion, rounding and clamping of a value (40_encoder.md R69 to R74), and the assembly of the
three words of an ENC operation (R48, R50, R51). Exact integer arithmetic on numerator and
denominator throughout; nothing wraps (R74). -/

namespace Sys2Proof.Machine

/-! ## Waveform types -/

/-- The waveform type of a code on the command port; 5 to 7 are reserved (R54, R59). -/
def waveformOfCode (code : BitVec 3) : Option Waveform :=
  if code = 0 then some .resetMidscale
  else if code = 1 then some .sine
  else if code = 2 then some .triangle
  else if code = 3 then some .rect
  else if code = 4 then some .rectHalf
  else none

/-- `WFBITS(t)`: the bits a waveform type contributes to a control word (R48). -/
def wfBits : Waveform → Word
  | .sine => 0x0000
  | .triangle => 0x0002
  | .rect => 0x0028
  | .rectHalf => 0x0020
  | .resetMidscale => 0x0100

/-! ## Words -/

/-- The reset word, "B28 set, Reset set" (R79). -/
def resetWord : Word := 0x2100

/-- `controlWord = 0x2000 | waveformTypeBits` (R48, R78). -/
def controlWord (t : Waveform) : Word := 0x2000 ||| wfBits t

/-- `lsbWord = (regValue & 0x3FFF) | 0x4000` (R50, R76). -/
def lsbWord (r : RegVal) : Word := (r &&& 0x3FFF).setWidth 16 ||| 0x4000

/-- `msbWord = ((regValue & 0xFFFC000) >> 14) | 0x4000` (R51, R77). -/
def msbWord (r : RegVal) : Word := ((r &&& 0xFFFC000) >>> 14).setWidth 16 ||| 0x4000

/-! ## Values -/

/-- An exact value on its way to the register, `num / den` (R74 (a)); `den` is never 0. -/
structure Scaled where
  num : Int
  den : Nat
deriving DecidableEq, Repr

/-- Conversion: `s = v * KCONV` (R70). -/
def scaleHz (v : Rat) : Scaled := ⟨v.num * (2 ^ Config.accBits : Nat), v.den * Config.fref⟩

/-- The raw value: `s = v` (R68). -/
def scaleRaw (v : Rat) : Scaled := ⟨v.num, v.den⟩

/-- `s := 2 * s` (R67). -/
def Scaled.double (s : Scaled) : Scaled := ⟨2 * s.num, s.den⟩

/-- `round(s)`: the nearest integer, a tie going away from zero (R72, D4; log entry 12). -/
def Scaled.round (s : Scaled) : Int :=
  if 0 ≤ s.num then (2 * s.num + s.den) / (2 * s.den) else -((-(2 * s.num) + s.den) / (2 * s.den))

/-- `clamp(n, lo, hi)` (R8). -/
def clamp (n lo hi : Int) : Int := if n < lo then lo else if n > hi then hi else n

/-- `regValue = clamp(round(s), 0, REG_MAX)`: rounding first, clamping second (R73). -/
def Scaled.regValue (s : Scaled) : RegVal := BitVec.ofNat 28 (clamp s.round 0 Config.regMax).toNat

/-- The half-frequency test of ENC_HZ: WF is Rectangle and the operand in Hz is below RECT_HALF_LIMIT,
strictly (R69, R71). -/
def halfFrequency (t : Waveform) (v : Rat) : Bool :=
  t == .rect && v.num < Config.rectHalfLimit * v.den

/-- The compute step of ENC_HZ: REGV and EWF (R67). -/
def computeHz (t : Waveform) (v : Rat) : RegVal × Waveform :=
  if halfFrequency t v then ((scaleHz v).double.regValue, .rectHalf) else ((scaleHz v).regValue, t)

/-- The compute step of ENC_RAW: REGV and EWF; no half-frequency adjustment (R68, R69 (c)). -/
def computeRaw (t : Waveform) (v : Rat) : RegVal × Waveform := ((scaleRaw v).regValue, t)

/-! ## The digit buffer -/

/-- Shift up by one slot, dropping the top slot, and put `d` in slot 0 (R101). -/
def DigitBuffer.push (b : DigitBuffer) (d : Digit) : DigitBuffer :=
  ⟨d, b.d0, b.d1, b.d2, b.d3, b.d4, b.d5, b.d6⟩

/-- `raw = BUF[0] + 10*BUF[1] + ... + 10^7*BUF[7]` (R104). -/
def DigitBuffer.raw (b : DigitBuffer) : Nat :=
  b.d0 + 10 * b.d1 + 100 * b.d2 + 1000 * b.d3 + 10000 * b.d4 + 100000 * b.d5 + 1000000 * b.d6
    + 10000000 * b.d7

end Sys2Proof.Machine
end

