-- ==== Sys2Proof/Machine/Ops.lean ====
section
/-! DEFINITION. The operations over state every family shares: the events, the line primitive
(41_bitlink.md R85), the transmission of a word (R86), the sequencer behind it (R90), the wait while
busy (40_encoder.md R83), and the reset of the block (70_reset_and_hazards.md R145).
There is no memory to read or write (20_memory.md R30) and no exception to take or return from
(60_exceptions.md R130, R134, R135), so no operation here does either. -/

namespace Sys2Proof.Machine

/-! ## Events and lines -/

/-- What an event makes of the level of line `l`: `Set(L, b)` gives line `L` the level `b`, and nothing
else moves a line (R85, R96). -/
def levelStep (l : Line) (level : Bool) : Event → Bool
  | .set l' b => if l' = l then b else level
  | _ => level

/-- The level of line `l` after some events, from `level` on (R96). -/
def levelFrom (l : Line) (level : Bool) (es : List Event) : Bool := es.foldl (levelStep l) level

/-- The machine produces the events, in order: each is appended to the history (R9, R16), and each
`Set(L, b)` among them gives line `L` the level `b`, also where it has that level already (R85). -/
def State.play (es : List Event) (s : State) : State :=
  { s with
    data := levelFrom .data s.data es
    clock := levelFrom .clock s.clock es
    fsync := levelFrom .fsync s.fsync es
    history := s.history ++ es }

/-- `Trace(w)` when DBG = 1; when DBG = 0 "no `Trace` event exists" (R94). -/
def traceEvents (dbg : Bool) (w : Word) : List Event := if dbg then [.trace w] else []

/-! ## Transmission of one word (R86) -/

/-- One bit: set DATA, pulse CLOCK low then high (R86). -/
def bitEvents (b : Bool) : List Event := [.set .data b, .set .clock false, .set .clock true]

/-- The bits of the word at the indices below `n`, from `n - 1` down to 0 (R34, R86). -/
def bitsEvents (w : Word) : Nat → List Event
  | 0 => []
  | n + 1 => bitEvents (w.getLsbD n) ++ bitsEvents w n

/-- One frame: FSYNC low, sixteen bits most significant first, FSYNC high (R86). -/
def frame (w : Word) : List Event := .set .fsync false :: (bitsEvents w 16 ++ [.set .fsync true])

/-- The events of TX16: the trace if DBG = 1, then the frame (R86). -/
def transmission (dbg : Bool) (w : Word) : List Event := traceEvents dbg w ++ frame w

/-- The transmitter's registers as a finished word leaves them: sixteen shifts have emptied SR, no bit
is left, and the phase is back at DATA_PH (R90; DEDUCED, log entry 7). -/
def State.restTransmitter (s : State) : State := { s with sr := 0, bitcnt := 0, ph := .dataPh }

/-- TX16 as a whole (R86). -/
def State.transmit (w : Word) (s : State) : State := (s.play (transmission s.dbg w)).restTransmitter

/-! ## Operations in progress -/

/-- `start(op)`: BUSY <- 1; WIDX <- 0 (R90). -/
def State.start (j : Job) (s : State) : State := { s with inProgress := some j, widx := 0 }

/-- The completion of an operation: BUSY <- 0; WIDX <- 0 (R90). -/
def State.finish (s : State) : State := { s with inProgress := none, widx := 0 }

/-- `emit3()`: LSB word, MSB word, control word, in that order (R75, R40). -/
def State.emit3 (s : State) : State :=
  ((s.transmit (lsbWord s.regv)).transmit (msbWord s.regv)).transmit (controlWord s.ewf)

/-- An operation just accepted performs to completion: all its words, then BUSY falls (R83, R90). -/
def State.complete (s : State) : State :=
  match s.inProgress with
  | none => s
  | some .encode => s.emit3.finish
  | some (.single w) => (s.transmit w).finish

/-! ## The sequencer (R90) -/

/-- `NW`: the number of words of the operation (R90). -/
def Job.words : Job → Nat
  | .encode => 3
  | .single _ => 1

/-- `word(k)`: the operation's `k`-th word (R90). -/
def State.wordAt (j : Job) (k : Nat) (s : State) : Word :=
  match j with
  | .single w => w
  | .encode => if k = 0 then lsbWord s.regv else if k = 1 then msbWord s.regv else controlWord s.ewf

/-- `load`: the trace if DBG = 1, SR <- w; BITCNT <- 16; PH <- DATA_PH; Set(FSYNC, 0) (R90). -/
def State.load (j : Job) (s : State) : State :=
  let w := s.wordAt j s.widx
  ({ s with sr := w, bitcnt := 16, ph := .dataPh } : State).play (traceEvents s.dbg w ++ [.set .fsync false])

/-- `bit`: one of the three phases of a bit (R90). -/
def State.bitStep (s : State) : State :=
  match s.ph with
  | .dataPh => ({ s with ph := .clkLoPh } : State).play [.set .data (s.sr.getLsbD 15)]
  | .clkLoPh => ({ s with ph := .clkHiPh } : State).play [.set .clock false]
  | .clkHiPh =>
    ({ s with ph := .dataPh, sr := s.sr <<< 1, bitcnt := s.bitcnt - 1 } : State).play [.set .clock true]

/-- `close`: Set(FSYNC, 1), then the next word or the end of the operation (R90). -/
def State.close (j : Job) (s : State) : State :=
  let t := s.play [.set .fsync true]
  if s.widx + 1 < j.words then { t with widx := s.widx + 1 } else t.finish

/-- One transition of the sequencer while BUSY = 1 (R90, R91). An idle block has none; nor has the
combination FSYNC = 1 with BITCNT > 0, which no run reaches (log entry 20). -/
def State.tick (s : State) : State :=
  match s.inProgress with
  | none => s
  | some j =>
    if s.fsync then (if s.bitcnt = 0 then s.load j else s)
    else if s.bitcnt = 0 then s.close j
    else s.bitStep

/-- `n` transitions of the sequencer. -/
def State.ticks : Nat → State → State
  | 0, s => s
  | n + 1, s => s.tick.ticks n

/-- The transitions a bit in progress has already made (R90). -/
def Phase.done : Phase → Nat
  | .dataPh => 0
  | .clkLoPh => 1
  | .clkHiPh => 2

/-- How many transitions the operation in progress still takes (R87, R91): fifty a word, namely one
`load`, three for each bit, one `close`. -/
def State.remaining (s : State) : Nat :=
  match s.inProgress with
  | none => 0
  | some j =>
    50 * (j.words - 1 - s.widx) + (if s.fsync then 50 else 3 * s.bitcnt - s.ph.done + 1)

/-- A command presented while BUSY = 1 "waits until BUSY = 0" (R83): the operation in progress takes
its remaining transitions. -/
def State.waitIdle (s : State) : State := s.ticks s.remaining

/-! ## Running an operation -/

/-- How every instruction runs: it waits until the block is idle, is accepted, and "runs to completion"
(R83, R39, R100). `accept` is the instruction's own effect up to the start of its transmission. It
always answers a next state (R130). -/
def perform (accept : State → State) (s : State) : Host.Outcome State Fault Refusal :=
  .next (accept s.waitIdle).complete

/-! ## Reset -/

/-- The reset input: "asserting it has exactly the effect of power-up" (R145), at once, also in the
middle of an operation (R149). What waits outside the machine keeps waiting (log entry 3). -/
def State.applyReset (s : State) : State :=
  { State.reset with inputs := s.inputs, resetPlan := s.resetPlan }

end Sys2Proof.Machine
end

