-- ==== Sys2Proof/Machine/BitLink.lean ====
section
/-! DEFINITION. The Bit-Link (41_bitlink.md): TX16, and the nine classes of wire words (30_encoding.md
R56). A wire word handed to the Bit-Link is sent unchanged, whatever its address bits: "TX16 sends any of
the 65,536 values" (R60). What the chip makes of it is outside the block (R3 (e); log entry 8). -/

namespace Sys2Proof.Machine

/-- The Bit-Link takes a word to send (R86, R90). -/
def State.startWord (w : Word) (s : State) : State := s.start (.single w)

/-- TX16 `w` (R86). -/
def acceptTx16 (w : Word) (s : State) : State := s.startWord w

def execTx16 (w : Word) (s : State) : Host.Outcome State Fault Refusal := perform (acceptTx16 w) s

/-- Control word 0x2000 (R48). -/
def acceptCtrlSine (s : State) : State := s.startWord 0x2000

def execCtrlSine (s : State) : Host.Outcome State Fault Refusal := perform acceptCtrlSine s

/-- Control word 0x2002 (R48). -/
def acceptCtrlTriangle (s : State) : State := s.startWord 0x2002

def execCtrlTriangle (s : State) : Host.Outcome State Fault Refusal := perform acceptCtrlTriangle s

/-- Control word 0x2020 (R48). -/
def acceptCtrlRectHalf (s : State) : State := s.startWord 0x2020

def execCtrlRectHalf (s : State) : Host.Outcome State Fault Refusal := perform acceptCtrlRectHalf s

/-- Control word 0x2028 (R48). -/
def acceptCtrlRect (s : State) : State := s.startWord 0x2028

def execCtrlRect (s : State) : Host.Outcome State Fault Refusal := perform acceptCtrlRect s

/-- The reset word 0x2100 (R48). -/
def acceptCtrlReset (s : State) : State := s.startWord 0x2100

def execCtrlReset (s : State) : Host.Outcome State Fault Refusal := perform acceptCtrlReset s

/-- A Freq0 data word, address 01 (R46). -/
def acceptFreq0Data (p : Payload) (s : State) : State := s.startWord (wireWord 1 p)

def execFreq0Data (p : Payload) (s : State) : Host.Outcome State Fault Refusal := perform (acceptFreq0Data p) s

/-- A Freq1 word, address 10 (R56). -/
def acceptFreq1Data (p : Payload) (s : State) : State := s.startWord (wireWord 2 p)

def execFreq1Data (p : Payload) (s : State) : Host.Outcome State Fault Refusal := perform (acceptFreq1Data p) s

/-- A Phase word, address 11 (R56). -/
def acceptPhaseData (p : Payload) (s : State) : State := s.startWord (wireWord 3 p)

def execPhaseData (p : Payload) (s : State) : Host.Outcome State Fault Refusal := perform (acceptPhaseData p) s

/-- A control word other than the five exact ones, address 00 (R56). -/
def acceptCtrlOther (p : Payload) (s : State) : State := s.startWord (wireWord 0 p)

def execCtrlOther (p : Payload) (s : State) : Host.Outcome State Fault Refusal := perform (acceptCtrlOther p) s

end Sys2Proof.Machine
end

