-- ==== Sys2Proof/Machine/Encoder.lean ====
section
/-! DEFINITION. The Register Encoder operations (40_encoder.md): SETWF, SETDBG, ENC_HZ, ENC_RAW,
CHIP_RESET, and the reserved operation codes (30_encoding.md R59). For each instruction, `accept…` is
its effect up to the start of its transmission, `exec…` the whole. -/

namespace Sys2Proof.Machine

/-! ## The operations on an idle block -/

/-- SETWF `t`: `WF <- t`, nothing else (R65). -/
def State.setWaveform (t : Waveform) (s : State) : State := { s with wf := t }

/-- SETDBG `b`: `DBG <- b`, nothing else (R66). -/
def State.setDebug (b : Bool) (s : State) : State := { s with dbg := b }

/-- The start of an ENC operation: REGV and EWF are written, then the transmission starts (R90). -/
def State.startEncode (c : RegVal × Waveform) (s : State) : State :=
  ({ s with regv := c.1, ewf := c.2 } : State).start .encode

/-- ENC_HZ `v` (R67). -/
def State.startEncHz (v : Rat) (s : State) : State := s.startEncode (computeHz s.wf v)

/-- ENC_RAW `v` (R68). -/
def State.startEncRaw (v : Rat) (s : State) : State := s.startEncode (computeRaw s.wf v)

/-- CHIP_RESET: `TX16(0x2100)` and nothing else (R79). -/
def State.startChipReset (s : State) : State := s.start (.single resetWord)

/-! ## Meanings -/

/-- SETWF; a reserved code is ignored whole (R65, R59). -/
def acceptSetwf (code : BitVec 3) (s : State) : State :=
  match waveformOfCode code with
  | some t => s.setWaveform t
  | none => s

def execSetwf (code : BitVec 3) (s : State) : Host.Outcome State Fault Refusal :=
  perform (acceptSetwf code) s

/-- SETDBG (R66). -/
def acceptSetdbg (b : Bool) (s : State) : State := s.setDebug b

def execSetdbg (b : Bool) (s : State) : Host.Outcome State Fault Refusal := perform (acceptSetdbg b) s

/-- ENC_HZ (R67). -/
def acceptEncHz (v : Rat) (s : State) : State := s.startEncHz v

def execEncHz (v : Rat) (s : State) : Host.Outcome State Fault Refusal := perform (acceptEncHz v) s

/-- ENC_RAW (R68). -/
def acceptEncRaw (v : Rat) (s : State) : State := s.startEncRaw v

def execEncRaw (v : Rat) (s : State) : Host.Outcome State Fault Refusal := perform (acceptEncRaw v) s

/-- CHIP_RESET (R79). -/
def acceptChipReset (s : State) : State := s.startChipReset

def execChipReset (s : State) : Host.Outcome State Fault Refusal := perform acceptChipReset s

/-- Operation code 6: "The block ignores such a command entirely: no state changes and no event is
produced" (R59). -/
def acceptReservedOp6 (s : State) : State := s

def execReservedOp6 (s : State) : Host.Outcome State Fault Refusal := perform acceptReservedOp6 s

/-- Operation code 7, ignored in the same way (R59). -/
def acceptReservedOp7 (s : State) : State := s

def execReservedOp7 (s : State) : Host.Outcome State Fault Refusal := perform acceptReservedOp7 s

end Sys2Proof.Machine
end

