-- ==== Sys2Proof/Machine/HostFrontend.lean ====
section
/-! DEFINITION. The documented host (42_host_frontend.md): the Numeric Accumulator and the Command
Dispatcher, one meaning per class of byte. A byte is echoed first (R107, R108), then processed; the block
operations it issues are those of Encoder.lean. -/

namespace Sys2Proof.Machine

/-! ## Echo -/

/-- "every character with code >= 0x20 (space) is echoed back verbatim if `echoEnabled`" (R108). -/
def echoEvents (echo : Bool) (c : Byte) : List Event := if echo && 0x20 ≤ c then [.echo c] else []

/-- The echo of a byte, with ECHO as it was before the byte (R108, D21). -/
def State.echoByte (c : Byte) (s : State) : State := s.play (echoEvents s.echo c)

/-! ## Numeric Accumulator -/

/-- on_digit(`d`) (R101): the first digit since the last finalize (NDIG = 0) clears BUF; NDIG saturates
at 255; a digit resets the scale factors. -/
def State.onDigit (d : Digit) (s : State) : State :=
  let b := if s.ndig = 0 then DigitBuffer.zero else s.buf
  { s with buf := b.push d, ndig := min (s.ndig + 1) 255, mult := .one, divExp := 0 }

/-- on_decimal_point(): `DMP <- NDIG + 1`, overwriting an earlier one (R102). -/
def State.onDecimalPoint (s : State) : State := { s with dmp := s.ndig + 1 }

/-- on_unit_suffix: MULT only (R103). -/
def State.onUnitSuffix (m : Scale) (s : State) : State := { s with mult := m }

/-- The exponent of DIV after finalize: `NDIG - DMP + 1` if there is a marker and a digit, else as it
stood (R104). Written `NDIG + 1 - DMP`, since DMP is at most NDIG + 1 (log entry 19). -/
def State.finalExp (s : State) : Nat :=
  if s.dmp ≠ 0 ∧ s.ndig ≠ 0 then s.ndig + 1 - s.dmp else s.divExp

/-- The value finalize returns: `raw * MULT / DIV`, exact (R104, D3). -/
def State.finalValue (s : State) : Rat := mkRat (s.buf.raw * s.mult.toNat : Nat) (10 ^ s.finalExp)

/-- What finalize leaves: DIV may be rewritten, NDIG and DMP are cleared; MULT and BUF stay (R104). -/
def State.finalize (s : State) : State := { s with divExp := s.finalExp, ndig := 0, dmp := 0 }

/-- "truthy value of digit slot 0" (R113, R118). -/
def State.slotTruth (s : State) : Bool := s.buf.d0 != 0

/-! ## Digits -/

/-- A digit byte: echo, then on_digit (R107, R101). -/
def State.digitByte (d : Digit) (s : State) : State :=
  (s.echoByte (0x30 + BitVec.ofNat 8 d)).onDigit d

/-- The byte `0` (R101). -/
def acceptDigit0 (s : State) : State := s.digitByte 0

def execDigit0 (s : State) : Host.Outcome State Fault Refusal := perform acceptDigit0 s

/-- The byte `1` (R101). -/
def acceptDigit1 (s : State) : State := s.digitByte 1

def execDigit1 (s : State) : Host.Outcome State Fault Refusal := perform acceptDigit1 s

/-- The byte `2` (R101). -/
def acceptDigit2 (s : State) : State := s.digitByte 2

def execDigit2 (s : State) : Host.Outcome State Fault Refusal := perform acceptDigit2 s

/-- The byte `3` (R101). -/
def acceptDigit3 (s : State) : State := s.digitByte 3

def execDigit3 (s : State) : Host.Outcome State Fault Refusal := perform acceptDigit3 s

/-- The byte `4` (R101). -/
def acceptDigit4 (s : State) : State := s.digitByte 4

def execDigit4 (s : State) : Host.Outcome State Fault Refusal := perform acceptDigit4 s

/-- The byte `5` (R101). -/
def acceptDigit5 (s : State) : State := s.digitByte 5

def execDigit5 (s : State) : Host.Outcome State Fault Refusal := perform acceptDigit5 s

/-- The byte `6` (R101). -/
def acceptDigit6 (s : State) : State := s.digitByte 6

def execDigit6 (s : State) : Host.Outcome State Fault Refusal := perform acceptDigit6 s

/-- The byte `7` (R101). -/
def acceptDigit7 (s : State) : State := s.digitByte 7

def execDigit7 (s : State) : Host.Outcome State Fault Refusal := perform acceptDigit7 s

/-- The byte `8` (R101). -/
def acceptDigit8 (s : State) : State := s.digitByte 8

def execDigit8 (s : State) : Host.Outcome State Fault Refusal := perform acceptDigit8 s

/-- The byte `9` (R101). -/
def acceptDigit9 (s : State) : State := s.digitByte 9

def execDigit9 (s : State) : Host.Outcome State Fault Refusal := perform acceptDigit9 s

/-! ## Point and unit suffixes -/

/-- `.` (R102). -/
def acceptPoint (s : State) : State := (s.echoByte 0x2E).onDecimalPoint

def execPoint (s : State) : Host.Outcome State Fault Refusal := perform acceptPoint s

/-- `K`: MULT <- 1000; neither finalizes nor dispatches (R103). -/
def acceptKiloK (lower : Bool) (s : State) : State :=
  (s.echoByte (letterByte 0x4B lower)).onUnitSuffix .kilo

def execKiloK (lower : Bool) (s : State) : Host.Outcome State Fault Refusal := perform (acceptKiloK lower) s

/-- `M`: MULT <- 1000000 (R103). -/
def acceptMegaM (lower : Bool) (s : State) : State :=
  (s.echoByte (letterByte 0x4D lower)).onUnitSuffix .mega

def execMegaM (lower : Bool) (s : State) : Host.Outcome State Fault Refusal := perform (acceptMegaM lower) s

/-! ## Command Dispatcher

Each command finalizes first (R109), and its own effect follows. -/

/-- `?`: one `Help` event (R112). -/
def acceptHelp (s : State) : State := ((s.echoByte 0x3F).finalize).play [.help]

def execHelp (s : State) : Host.Outcome State Fault Refusal := perform acceptHelp s

/-- `E`: `ECHO <- (BUF[0] != 0)` (R113). -/
def acceptEchoE (lower : Bool) (s : State) : State :=
  let t := (s.echoByte (letterByte 0x45 lower)).finalize
  { t with echo := t.slotTruth }

def execEchoE (lower : Bool) (s : State) : Host.Outcome State Fault Refusal := perform (acceptEchoE lower) s

/-- `N`: `SETWF SINE; ENC_RAW value` (R114). -/
def acceptRawN (lower : Bool) (s : State) : State :=
  (((s.echoByte (letterByte 0x4E lower)).finalize).setWaveform .sine).startEncRaw s.finalValue

def execRawN (lower : Bool) (s : State) : Host.Outcome State Fault Refusal := perform (acceptRawN lower) s

/-- `O`: `CHIP_RESET` (R115). -/
def acceptOffO (lower : Bool) (s : State) : State :=
  ((s.echoByte (letterByte 0x4F lower)).finalize).startChipReset

def execOffO (lower : Bool) (s : State) : Host.Outcome State Fault Refusal := perform (acceptOffO lower) s

/-- `S`: `SETWF SINE; ENC_HZ value` (R116). -/
def acceptSineS (lower : Bool) (s : State) : State :=
  (((s.echoByte (letterByte 0x53 lower)).finalize).setWaveform .sine).startEncHz s.finalValue

def execSineS (lower : Bool) (s : State) : Host.Outcome State Fault Refusal := perform (acceptSineS lower) s

/-- `T`: `SETWF TRIANGLE; ENC_HZ value` (R117). -/
def acceptTriangleT (lower : Bool) (s : State) : State :=
  (((s.echoByte (letterByte 0x54 lower)).finalize).setWaveform .triangle).startEncHz s.finalValue

def execTriangleT (lower : Bool) (s : State) : Host.Outcome State Fault Refusal := perform (acceptTriangleT lower) s

/-- `Z`: `SETDBG (BUF[0] != 0)` (R118). -/
def acceptDebugZ (lower : Bool) (s : State) : State :=
  let t := (s.echoByte (letterByte 0x5A lower)).finalize
  t.setDebug t.slotTruth

def execDebugZ (lower : Bool) (s : State) : Host.Outcome State Fault Refusal := perform (acceptDebugZ lower) s

/-- Any other byte: nothing but the echo (R119). -/
def acceptOtherByte (b : Byte) (s : State) : State := s.echoByte b

def execOtherByte (b : Byte) (s : State) : Host.Outcome State Fault Refusal := perform (acceptOtherByte b) s

end Sys2Proof.Machine
end

