-- ==== Sys2Proof/Machine/Accept.lean ====
section
/-! DEFINITION. `accept`: each instruction's effect on an idle machine up to the start of its
transmission, for the step that follows the sequencer transition by transition while the reset input is
due (41_bitlink.md R90, 70_reset_and_hazards.md R149; log entry 3). -/

namespace Sys2Proof.Machine

/-- What the acceptance of an instruction does (`start(op)` of R90; for a host byte, what the host does
before and at the operation it issues, R100). -/
def accept (i : Instr) (s : State) : State :=
  match i with
  | .setwf code => acceptSetwf code s
  | .setdbg b => acceptSetdbg b s
  | .encHz v => acceptEncHz v s
  | .encRaw v => acceptEncRaw v s
  | .chipReset => acceptChipReset s
  | .tx16 w => acceptTx16 w s
  | .reservedOp6 => acceptReservedOp6 s
  | .reservedOp7 => acceptReservedOp7 s
  | .ctrlSine => acceptCtrlSine s
  | .ctrlTriangle => acceptCtrlTriangle s
  | .ctrlRectHalf => acceptCtrlRectHalf s
  | .ctrlRect => acceptCtrlRect s
  | .ctrlReset => acceptCtrlReset s
  | .freq0Data d => acceptFreq0Data d s
  | .freq1Data p => acceptFreq1Data p s
  | .phaseData p => acceptPhaseData p s
  | .ctrlOther p => acceptCtrlOther p s
  | .digit0 => acceptDigit0 s
  | .digit1 => acceptDigit1 s
  | .digit2 => acceptDigit2 s
  | .digit3 => acceptDigit3 s
  | .digit4 => acceptDigit4 s
  | .digit5 => acceptDigit5 s
  | .digit6 => acceptDigit6 s
  | .digit7 => acceptDigit7 s
  | .digit8 => acceptDigit8 s
  | .digit9 => acceptDigit9 s
  | .point => acceptPoint s
  | .help => acceptHelp s
  | .echoE lower => acceptEchoE lower s
  | .kiloK lower => acceptKiloK lower s
  | .megaM lower => acceptMegaM lower s
  | .rawN lower => acceptRawN lower s
  | .offO lower => acceptOffO lower s
  | .sineS lower => acceptSineS lower s
  | .triangleT lower => acceptTriangleT lower s
  | .debugZ lower => acceptDebugZ lower s
  | .otherByte b => acceptOtherByte b s

/-- One transition of the machine (R91): a busy block takes its next sequencer transition; an idle one
takes the next item of work, if any, and accepts it; else it waits (R148). -/
def State.fineStep (s : State) : State :=
  if s.busy then s.tick
  else match s.inputs with
    | [] => s
    | inp :: rest => accept (decode inp) { s with inputs := rest }

end Sys2Proof.Machine
end

