-- ==== Sys2Proof/Machine/Dispatch.lean ====
section
/-! DEFINITION. `exec`: the meaning of every instruction, one arm per constructor. -/

namespace Sys2Proof.Machine

def exec (i : Instr) (s : State) : Host.Outcome State Fault Refusal :=
  match i with
  | .setwf code => Sys2Proof.Machine.execSetwf code s
  | .setdbg b => Sys2Proof.Machine.execSetdbg b s
  | .encHz v => Sys2Proof.Machine.execEncHz v s
  | .encRaw v => Sys2Proof.Machine.execEncRaw v s
  | .chipReset => Sys2Proof.Machine.execChipReset s
  | .tx16 w => Sys2Proof.Machine.execTx16 w s
  | .reservedOp6 => Sys2Proof.Machine.execReservedOp6 s
  | .reservedOp7 => Sys2Proof.Machine.execReservedOp7 s
  | .ctrlSine => Sys2Proof.Machine.execCtrlSine s
  | .ctrlTriangle => Sys2Proof.Machine.execCtrlTriangle s
  | .ctrlRectHalf => Sys2Proof.Machine.execCtrlRectHalf s
  | .ctrlRect => Sys2Proof.Machine.execCtrlRect s
  | .ctrlReset => Sys2Proof.Machine.execCtrlReset s
  | .freq0Data d => Sys2Proof.Machine.execFreq0Data d s
  | .freq1Data p => Sys2Proof.Machine.execFreq1Data p s
  | .phaseData p => Sys2Proof.Machine.execPhaseData p s
  | .ctrlOther p => Sys2Proof.Machine.execCtrlOther p s
  | .digit0 => Sys2Proof.Machine.execDigit0 s
  | .digit1 => Sys2Proof.Machine.execDigit1 s
  | .digit2 => Sys2Proof.Machine.execDigit2 s
  | .digit3 => Sys2Proof.Machine.execDigit3 s
  | .digit4 => Sys2Proof.Machine.execDigit4 s
  | .digit5 => Sys2Proof.Machine.execDigit5 s
  | .digit6 => Sys2Proof.Machine.execDigit6 s
  | .digit7 => Sys2Proof.Machine.execDigit7 s
  | .digit8 => Sys2Proof.Machine.execDigit8 s
  | .digit9 => Sys2Proof.Machine.execDigit9 s
  | .point => Sys2Proof.Machine.execPoint s
  | .help => Sys2Proof.Machine.execHelp s
  | .echoE lower => Sys2Proof.Machine.execEchoE lower s
  | .kiloK lower => Sys2Proof.Machine.execKiloK lower s
  | .megaM lower => Sys2Proof.Machine.execMegaM lower s
  | .rawN lower => Sys2Proof.Machine.execRawN lower s
  | .offO lower => Sys2Proof.Machine.execOffO lower s
  | .sineS lower => Sys2Proof.Machine.execSineS lower s
  | .triangleT lower => Sys2Proof.Machine.execTriangleT lower s
  | .debugZ lower => Sys2Proof.Machine.execDebugZ lower s
  | .otherByte b => Sys2Proof.Machine.execOtherByte b s

end Sys2Proof.Machine
end

