-- ==== Sys2Proof/Machine/Step.lean ====
section
/-! DEFINITION. One step of the machine. -/

namespace Sys2Proof.Machine

/-- One step. With no reset due, the machine takes the next item of work off its ports, decodes it and
runs it to completion (40_encoder.md R83: "The block takes one operation, performs it to completion, and
only then takes the next"); with no work waiting it goes on with the operation in progress, or waits
(70_reset_and_hazards.md R148). While the reset input is due in `n` transitions, a step is one
transition (41_bitlink.md R91), and at `0` it is the reset (R145, R149). Log entries 2 and 3. -/
def step (s : State) : Host.Outcome State Fault Refusal :=
  match s.resetPlan with
  | 0 :: rest => .next (State.applyReset { s with resetPlan := rest })
  | (n + 1) :: rest => .next (State.fineStep { s with resetPlan := n :: rest })
  | [] =>
    match s.inputs with
    | [] => .next s.tick
    | inp :: rest => exec (decode inp) { s with inputs := rest }

/-- The state with the table word `w` of `nbits` bits placed on the port the next step reads first,
and no reset due before it (log entries 1 and 16). -/
def State.withFetchWord (s : State) (nbits w : Nat) : State :=
  match tableInput nbits w with
  | some inp => { s with inputs := inp :: s.inputs, resetPlan := [] }
  | none => s

end Sys2Proof.Machine
end

