-- ==== Sys2Proof/Machine/Receiver.lean ====
section
/-! DEFINITION. What an observer makes of the event history (00_scope.md R9): the events of
several words, the line levels (41_bitlink.md R96), a receiver on the three lines (R89), the
receiver's recombination (30_encoding.md R52), the text on the transport (R94, R112), and what the
spec's few sentences about the chip let one conclude of it (20_memory.md R33, R38). None of it is state
of the machine, and no step reads it. -/

namespace Sys2Proof.Machine

/-! ## Sequences of words -/

/-- Transmissions one after another (R39). -/
def transmissions (dbg : Bool) (ws : List Word) : List Event := ws.flatMap (transmission dbg)

/-- The three words of an ENC operation (R75). -/
def encWords (r : RegVal) (t : Waveform) : List Word := [lsbWord r, msbWord r, controlWord t]

/-- The event is a line set; the other events "do not affect levels" (R96). -/
def Event.isSet : Event → Bool
  | .set _ _ => true
  | _ => false

/-! ## Levels -/

/-- The level of a line at reset (R14). -/
def resetLevel : Line → Bool
  | .data => false
  | .clock => true
  | .fsync => true

/-- "The level of line `L` after the first `n` events of a history is the argument of the last `Set(L, .)`
among them, or the reset level" (R96). -/
def levelAfter (l : Line) (h : List Event) : Bool := levelFrom l (resetLevel l) h

/-- The line register of the state. -/
def State.line (l : Line) (s : State) : Bool :=
  match l with
  | .data => s.data
  | .clock => s.clock
  | .fsync => s.fsync

/-! ## A receiver on the lines -/

/-- The clock edge a receiver samples DATA on: the source does not say which (R89, N2). -/
inductive Edge where
  | falling
  | rising
deriving DecidableEq, Repr

/-- A receiver: the levels it sees, the bits of the frame in progress, the words received. -/
structure Receiver where
  data  : Bool
  clock : Bool
  fsync : Bool
  bits  : List Bool
  words : List Word
deriving DecidableEq, Repr

/-- A receiver that has seen nothing, on lines at their reset levels. -/
def Receiver.reset : Receiver := ⟨false, true, true, [], []⟩

/-- The word whose bits came in this order, the first most significant (R34). -/
def wordOfBits (bs : List Bool) : Word :=
  bs.foldl (fun acc b => acc <<< 1 ||| (if b then 1 else 0)) 0

/-- The clock goes from `before` to `after` over the sampling edge. -/
def Edge.occurs (e : Edge) (before after : Bool) : Bool :=
  match e with
  | .falling => before && !after
  | .rising => !before && after

/-- What a receiver makes of one event: it samples DATA on its edge while FSYNC = 0, and takes a word of
sixteen bits when FSYNC rises (R89). -/
def Receiver.observe (e : Edge) (r : Receiver) : Event → Receiver
  | .set .data b => { r with data := b }
  | .set .clock b =>
    { r with
      clock := b
      bits := if !r.fsync && e.occurs r.clock b then r.bits ++ [r.data] else r.bits }
  | .set .fsync b =>
    { r with
      fsync := b
      bits := []
      words := if b && !r.fsync && r.bits.length == 16 then r.words ++ [wordOfBits r.bits] else r.words }
  | _ => r

/-- The words on the wire, as a receiver on edge `e` collects them from a history. -/
def wordsReceived (e : Edge) (h : List Event) : List Word :=
  (h.foldl (Receiver.observe e) Receiver.reset).words

/-- `(msbWord & 0x3FFF) << 14 | (lsbWord & 0x3FFF)` (R52). -/
def recombine (lsb msb : Word) : RegVal :=
  (msb &&& 0x3FFF).setWidth 28 <<< 14 ||| (lsb &&& 0x3FFF).setWidth 28

/-! ## The transport -/

/-- The bytes of a line of the help text. -/
def lineBytes (l : String) : List Byte := l.toList.map fun c => BitVec.ofNat 8 c.toNat

/-- The bytes an event puts on the transport (R94, R108, R112); a line set puts none. -/
def Event.transportBytes : Event → List Byte
  | .set _ _ => []
  | .trace w => Config.traceFormat w
  | .echo c => [c]
  | .help => Config.helpLines.flatMap fun l => lineBytes l ++ Config.helpEol

/-- The transport's output of a history. -/
def transportOutput (h : List Event) : List Byte := h.flatMap Event.transportBytes

/-! ## What is known of the chip

The chip is outside the block (R3 (e)). These definitions hold no more than R33 (c), R33 (d), R38, R155
and R156 say; everything else is unknown, and stays so. DESIGN CHOICE: log entry 17. -/

/-- Where the chip stands in a pair of frequency words (R38). -/
inductive Pairing where
  /-- The next Freq0 word is a low half. -/
  | aligned
  /-- A low half has arrived, its partner has not. -/
  | half (lsb : Payload)
  /-- The source does not say (R155, N4). -/
  | unknown
deriving DecidableEq, Repr

/-- What the words sent so far let one say of the chip; `none` is "not known". -/
structure ChipView where
  /-- The Reset state (R33 (d)). -/
  inReset : Option Bool
  /-- B28 mode is on (R156). -/
  b28 : Option Bool
  pairing : Pairing
  /-- The frequency value the chip has latched (R33 (c)). -/
  frequency : Option RegVal
deriving DecidableEq, Repr

/-- After power-up "the chip's state is unknown to the block" (R147); no frequency word has been sent. -/
def ChipView.powerUp : ChipView := ⟨none, none, .aligned, none⟩

/-- After a word whose effect on the chip the source does not describe (U3). -/
def ChipView.lost : ChipView := ⟨none, none, .unknown, none⟩

/-- One of the five exact control words: it sets B28, and its Reset bit sets or clears the Reset state
(R33 (d), R159). What it does to a half-loaded frequency is not in the source (R155). -/
def ChipView.control (v : ChipView) (resetBit : Bool) : ChipView :=
  { v with
    inReset := some resetBit
    b28 := some true
    pairing := if v.pairing = .aligned then .aligned else .unknown }

/-- A Freq0 word: in B28 mode two of them in turn are a low and a high half, and the chip latches the new
frequency only with the second (R33 (c), R38). Outside B28 mode nothing is known (R156). -/
def ChipView.freq0 (v : ChipView) (p : Payload) : ChipView :=
  if v.b28 = some true then
    match v.pairing with
    | .aligned => { v with pairing := .half p }
    | .half l => { v with pairing := .aligned, frequency := some (p ++ l) }
    | .unknown => { v with frequency := none }
  else { v with pairing := .unknown, frequency := none }

/-- What one word on the wire adds to what is known, by its class (R56). -/
def ChipView.word (v : ChipView) (w : Word) : ChipView :=
  match decodeWire w with
  | .ctrlReset => v.control true
  | .ctrlSine => v.control false
  | .ctrlTriangle => v.control false
  | .ctrlRect => v.control false
  | .ctrlRectHalf => v.control false
  | .freq0Data p => v.freq0 p
  | _ => ChipView.lost

/-- What is known of the chip after the words of a history. -/
def chipView (ws : List Word) : ChipView := ws.foldl ChipView.word ChipView.powerUp

end Sys2Proof.Machine
end

