-- ==== Sys2Proof/Safety.lean ====
section
/-! DEFINITION. What the claims speak of: the invariant of the machine, the outcome of a whole run, and the
duties the spec leaves to the host (70_reset_and_hazards.md R154 to R156). -/

namespace Sys2Proof.Machine

/-! ## The invariant -/

/-- The idle levels and the resting sequencer: "In every state with BUSY = 0, CLOCK = 1 and FSYNC = 1"
(41_bitlink.md R93), with BITCNT = 0, WIDX = 0 and PH = DATA_PH (R90). -/
abbrev State.Rested (s : State) : Prop :=
  s.clock = true ∧ s.fsync = true ∧ s.bitcnt = 0 ∧ s.widx = 0 ∧ s.ph = .dataPh

/-- A sequencer position inside an operation of `n` words (10_state.md R19, R20; 41_bitlink.md R90). -/
abbrev State.MidOperation (n : Nat) (s : State) : Prop :=
  s.widx < n ∧ s.bitcnt ≤ 16
    ∧ (s.fsync = true → s.bitcnt = 0 ∧ s.ph = .dataPh)
    ∧ (s.bitcnt = 0 → s.ph = .dataPh)
    ∧ s.clock = decide (s.ph ≠ .clkHiPh)

/-- The sequencer is at a legal position. -/
abbrev State.SequencerOk (s : State) : Prop :=
  match s.inProgress with
  | none => s.Rested
  | some j => s.MidOperation j.words

/-- The line registers are the levels the history gives (R96). -/
abbrev State.LevelsOk (s : State) : Prop :=
  s.data = levelAfter .data s.history ∧ s.clock = levelAfter .clock s.history
    ∧ s.fsync = levelAfter .fsync s.history

/-- REGV is in `[0, REG_MAX]` (R17). -/
abbrev State.RegisterOk (s : State) : Prop := s.regv.toNat ≤ Config.regMax

/-- The ranges of the host's counters (R23, R24, R25). -/
abbrev State.CountersOk (s : State) : Prop :=
  s.ndig ≤ 255 ∧ s.dmp ≤ s.ndig + 1 ∧ s.divExp ≤ 255

/-- The invariant of the machine. -/
abbrev State.Inv (s : State) : Prop :=
  s.SequencerOk ∧ s.LevelsOk ∧ s.RegisterOk ∧ s.CountersOk

/-! ## Results -/

/-- The bit DATA is left at after some words: bit 0 of the last one, or as it was (R15). -/
def lastBit (before : Bool) (ws : List Word) : Bool := (ws.getLast?.map (·.getLsbD 0)).getD before

/-- What the state is after the words have been sent and the block is idle again: their events are
appended, DATA holds bit 0 of the last word, CLOCK and FSYNC are high, the transmitter rests (R15, R86,
R90, R93), and nothing else has changed. -/
def State.sent (ws : List Word) (s : State) : State :=
  { s with
    data := lastBit s.data ws
    clock := true
    fsync := true
    sr := 0
    bitcnt := 0
    ph := .dataPh
    widx := 0
    inProgress := none
    history := s.history ++ transmissions s.dbg ws }

/-- `round(q)`: the integer nearest to `q`, a tie going away from zero (R8, R72). -/
def nearest (q : Rat) : Int := if 0 ≤ q then ⌊q + 1 / 2⌋ else -⌊-q + 1 / 2⌋

/-- `clamp(round(q), 0, REG_MAX)` as a register value (R73). -/
def regValueOf (q : Rat) : RegVal := BitVec.ofNat 28 (clamp (nearest q) 0 Config.regMax).toNat

/-- The exact rational a scaled value stands for. -/
def Scaled.toRat (s : Scaled) : Rat := (s.num : Rat) / (s.den : Rat)

/-- The ENC operation leaves REGV and EWF at these values and has sent its three words (R67, R68, R75). -/
def State.encoded (r : RegVal) (t : Waveform) (s : State) : State :=
  ({ s with regv := r, ewf := t } : State).sent (encWords r t)

/-- A finalizing command byte `c`, printable as they all are, has been echoed if ECHO = 1 and has finalized
the number (R107, R108, R109, R104). -/
def State.finalized (c : Byte) (s : State) : State :=
  { s with
    history := s.history ++ (if s.echo then [.echo c] else [])
    divExp := if s.dmp ≠ 0 ∧ s.ndig ≠ 0 then s.ndig + 1 - s.dmp else s.divExp
    ndig := 0
    dmp := 0 }

/-! ## Runs -/

/-- A run has ended when the block is idle and no work waits (R164). -/
def State.runEnded (s : State) : Bool := !s.busy && s.inputs.isEmpty

/-! ## Duties of the host -/

/-- The words keep the host's duties toward the chip from `v` on: after each of them the chip's pairing
of frequency words is still known, so none was sent outside B28 mode (R156) and no control word or
undescribed word stood between a low half and its partner (R154, R155). -/
def keepsPairing : ChipView → List Word → Bool
  | _, [] => true
  | v, w :: ws => (v.word w).pairing != .unknown && keepsPairing (v.word w) ws

end Sys2Proof.Machine
end

