-- ==== Sys2Proof/Certificates/Slice0/Obligations.lean ====
section
/-! DEFINITION. The statements for the provers. Each docstring names the rules of spec/ it formalises and the
decisions of the spec, or of the model's log, that it rests on. "Idle" is `inProgress = none`, BUSY = 0;
what a busy block does with an instruction is `CommandPresentedWhileBusyWaits`. A result is stated as the
whole next state, so each says the frame as well: what the equation does not name is unchanged. -/

open Sys2Proof Sys2Proof.Machine

/-- Decoding an encoded well-formed instruction gives it back. Rests on the encodings of R46, R48, R54 and R57; the laying of operands on the command port is the model's (log entry 9). -/
def Obligations.DecodeOfEncodeIsIdentity : Prop :=
  ∀ i : Instr, wellFormed i = true → decode (encode i) = i

/-- The decoder gives well-formed instructions only. The precedence of R55 (first matching row). -/
def Obligations.DecodedInstructionsAreWellFormed : Prop :=
  ∀ inp : Input, wellFormed (decode inp) = true

/-- Every wire word and every host byte is the encoding of what it decodes to. R56, R57; that the case is kept follows from the verbatim echo of R108. -/
def Obligations.WordsAndBytesHaveOneMeaning : Prop :=
  (∀ w : Word, encode (decode (.wire w)) = .wire w) ∧
    (∀ b : Byte, encode (decode (.byte b)) = .byte b)

/-- The decoded instruction is that of the first matching row of the opcode table. R55, which the spec marks as derived from R49, R54, R56, R57. -/
def Obligations.FirstMatchingTableRowDecides : Prop :=
  ∀ inp : Input, (tableRow inp).map Row.mnemonic = some (decode inp).mnemonic

/-- A wire word is classified by its address bits, and five control words by all sixteen bits. The classification of R56 (its last clause, about TX16, is WireWordsAreSentUnchanged). -/
def Obligations.WireWordClassFollowsAddressBits : Prop :=
  ∀ w : Word,
    (addressOf w = 1 → decodeWire w = .freq0Data (payloadOf w)) ∧
    (addressOf w = 2 → decodeWire w = .freq1Data (payloadOf w)) ∧
    (addressOf w = 3 → decodeWire w = .phaseData (payloadOf w)) ∧
    (addressOf w = 0 → w ∉ [0x2000, 0x2002, 0x2020, 0x2028, 0x2100] →
      decodeWire w = .ctrlOther (payloadOf w)) ∧
    (w = 0x2000 → decodeWire w = .ctrlSine) ∧ (w = 0x2002 → decodeWire w = .ctrlTriangle) ∧
    (w = 0x2020 → decodeWire w = .ctrlRectHalf) ∧ (w = 0x2028 → decodeWire w = .ctrlRect) ∧
    (w = 0x2100 → decodeWire w = .ctrlReset)

/-- Words written out from the encoding tables decode to the instructions they stand for. A sanity check of the decoder on words of R46, R48, R54, R57. -/
def Obligations.SampleWordsDecodeToTheirRows : Prop :=
  decode (.command ⟨0b000, 0b011, 0⟩) = .setwf 3 ∧
    decode (.command ⟨0b101, 0x69F1, 0⟩) = .tx16 0x69F1 ∧
    decode (.command ⟨0b110, 0, 0⟩) = .reservedOp6 ∧
    decode (.wire 0b0010000100000000) = .ctrlReset ∧
    decode (.wire 0b0110100111110001) = .freq0Data 0b10100111110001 ∧
    decode (.wire 0b1100000000000001) = .phaseData 1 ∧
    decode (.byte 0b00110101) = .digit5 ∧
    decode (.byte 0b01010011) = .sineS false ∧
    decode (.byte 0b01110011) = .sineS true ∧
    decode (.byte 0b01000100) = .otherByte 0x44

/-- SETWF writes WF and nothing else; a reserved code changes nothing. R65 with R54 and R59. The operation and its numbering are the spec's decisions D1 and D2, the treatment of reserved codes D15. -/
def Obligations.SetwfWritesWaveformOnly : Prop :=
  ∀ s : State, s.inProgress = none →
    exec (.setwf 0) s = .next { s with wf := .resetMidscale } ∧
    exec (.setwf 1) s = .next { s with wf := .sine } ∧
    exec (.setwf 2) s = .next { s with wf := .triangle } ∧
    exec (.setwf 3) s = .next { s with wf := .rect } ∧
    exec (.setwf 4) s = .next { s with wf := .rectHalf } ∧
    ∀ code : BitVec 3, 5 ≤ code.toNat → exec (.setwf code) s = .next s

/-- SETDBG writes DBG and nothing else. R66; the operation is the spec's decision D1. -/
def Obligations.SetdbgWritesDebugOnly : Prop :=
  ∀ (s : State) (b : Bool), s.inProgress = none →
    exec (.setdbg b) s = .next { s with dbg := b }

/-- The reserved operation codes 6 and 7 are ignored entirely. R59; ignoring them is the spec's decision D15. -/
def Obligations.ReservedOperationsChangeNothing : Prop :=
  ∀ (s : State) (arg : BitVec 16) (v : Rat), s.inProgress = none →
    exec .reservedOp6 s = .next s ∧ exec .reservedOp7 s = .next s ∧
    decode (.command ⟨6, arg, v⟩) = .reservedOp6 ∧ decode (.command ⟨7, arg, v⟩) = .reservedOp7

/-- ENC_HZ converts, adjusts, rounds, clamps and sends its three words. R67 with R69 to R73 and R75. Exact rationals are decision D3, the tie rule D4, the reading of the threshold D5, the unchanged WF D6 (log entries 11, 12, 15). That the transmitter's registers are at rest afterwards (SR = 0, BITCNT = 0, PH = DATA_PH) is log entry 7. -/
def Obligations.EncHzConvertsAndSendsThreeWords : Prop :=
  ∀ (s : State) (v : Rat), s.inProgress = none →
    (s.wf = .rect ∧ v < (Config.rectHalfLimit : Rat) →
      exec (.encHz v) s = .next (s.encoded (regValueOf (2 * (v * Config.kconv))) .rectHalf)) ∧
    (¬(s.wf = .rect ∧ v < (Config.rectHalfLimit : Rat)) →
      exec (.encHz v) s = .next (s.encoded (regValueOf (v * Config.kconv)) s.wf))

/-- ENC_RAW rounds and clamps the raw value and sends its three words. R68 with R72, R73, R75. That the half-frequency adjustment does not apply is decision D8; exact rationals are D3, the tie rule D4 (log entries 15, 11, 12). That the transmitter's registers are at rest afterwards (SR = 0, BITCNT = 0, PH = DATA_PH) is log entry 7. -/
def Obligations.EncRawRoundsAndSendsThreeWords : Prop :=
  ∀ (s : State) (v : Rat), s.inProgress = none →
    exec (.encRaw v) s = .next (s.encoded (regValueOf v) s.wf)

/-- CHIP_RESET sends the single word 0x2100 and changes nothing else. R79. What the transmitter's registers hold afterwards is not part of it. -/
def Obligations.ChipResetSendsResetWordOnly : Prop :=
  ∀ s : State, s.inProgress = none →
    ∃ t, exec .chipReset s = .next t ∧ t.history = s.history ++ transmission s.dbg 0x2100 ∧
      t.busy = false ∧
      t = { s with
        data := t.data
        clock := t.clock
        fsync := t.fsync
        sr := t.sr
        bitcnt := t.bitcnt
        ph := t.ph
        widx := t.widx
        inProgress := t.inProgress
        history := t.history }

/-- The machine's rounding gives the nearest integer, ties going away from zero. R72; the tie rule is decision D4 (log entry 12). -/
def Obligations.RoundingIsToNearestTiesAway : Prop :=
  ∀ q : Scaled, q.den ≠ 0 →
    |(q.round : Rat) - q.toRat| ≤ 1 / 2 ∧
    (|(q.round : Rat) - q.toRat| = 1 / 2 → |q.toRat| < |(q.round : Rat)|)

/-- The register value is the rounded value clamped to [0, 0x7FFFFFF]; it never wraps. R73. -/
def Obligations.RegisterValueIsClampedNeverWraps : Prop :=
  ∀ q : Scaled, q.den ≠ 0 →
    (q.regValue.toNat : Int) = clamp q.round 0 0x7FFFFFF ∧
    (0x8000000 ≤ q.round → q.regValue.toNat = 0x7FFFFFF) ∧
    (q.round < 0 → q.regValue.toNat = 0) ∧
    (0 ≤ q.round → q.round ≤ 0x7FFFFFF → (q.regValue.toNat : Int) = q.round) ∧
    ((Config.regMax : Rat) + 1 / 2 ≤ q.toRat → q.regValue.toNat = 0x7FFFFFF) ∧
    ((Config.regMax : Rat) ≤ q.toRat → q.toRat < (Config.regMax : Rat) + 1 / 2 → q.round = 0x7FFFFFF)

/-- The register value grows with the operand for every waveform type other than Rectangle. R74 (h), which speaks of the types other than RECT; that ENC_RAW is monotone for RECT too rests on decision D8 (log entry 15). Both rest on D3 and D4 (log entries 11 and 12). -/
def Obligations.RegisterValueIsMonotone : Prop :=
  ∀ (t : Waveform) (v w : Rat), v ≤ w →
    (t ≠ .rect → (computeHz t v).1.toNat ≤ (computeHz t w).1.toNat) ∧
    (computeRaw t v).1.toNat ≤ (computeRaw t w).1.toNat

/-- Rectangle from 6.25 MHz up to 12 MHz is sent as REG_MAX in half-frequency mode. R81, which the spec marks as derived from R69, R70, R73; it rests on D3, D4, D5 and D6 (log entries 11, 12, 15). That the transmitter's registers are at rest afterwards (SR = 0, BITCNT = 0, PH = DATA_PH) is log entry 7. -/
def Obligations.RectangleFrom6250000To12000000IsClamped : Prop :=
  ∀ s : State, s.inProgress = none → s.wf = .rect →
    (∀ v : Rat, 6250000 ≤ v → v < 12000000 →
      exec (.encHz v) s = .next (({ s with regv := 0x7FFFFFF, ewf := .rectHalf } : State).sent
        [0x7FFF, 0x5FFF, 0x2020])) ∧
    exec (.encHz 6249999) s = .next (s.encoded 0x7FFFFEB .rectHalf) ∧
    exec (.encHz 12000000) s = .next (s.encoded 0x7AE147B .rect)

/-- An ENC operation while WF = RESET_MIDSCALE ends with the control word 0x2100. R80; the spec's decision D7 (log entry 15); the register value rests on D3 and D4 (log entries 11 and 12). That the transmitter's registers are at rest afterwards (SR = 0, BITCNT = 0, PH = DATA_PH) is log entry 7. -/
def Obligations.EncodeInResetMidscaleSendsResetWordLast : Prop :=
  ∀ (s : State) (v : Rat), s.inProgress = none → s.wf = .resetMidscale →
    (let r := regValueOf (v * Config.kconv);
      exec (.encHz v) s = .next
        (({ s with regv := r, ewf := .resetMidscale } : State).sent [lsbWord r, msbWord r, 0x2100])) ∧
    (let r := regValueOf v;
      exec (.encRaw v) s = .next
        (({ s with regv := r, ewf := .resetMidscale } : State).sent [lsbWord r, msbWord r, 0x2100]))

/-- The two frequency words carry the register value and recombine to it. R50, R51, R52; R51's range and R52's identity are the spec's own derivations. -/
def Obligations.FrequencyWordsRecombine : Prop :=
  ∀ r : RegVal, r.toNat ≤ Config.regMax →
    lsbWord r = wireWord 1 (r.extractLsb' 0 14) ∧ msbWord r = wireWord 1 (r.extractLsb' 14 14) ∧
    0x4000 ≤ (msbWord r).toNat ∧ (msbWord r).toNat ≤ 0x5FFF ∧
    recombine (lsbWord r) (msbWord r) = r

/-- The words an ENC_HZ sends decode to the rounded scaled frequency. The form of DOC0's round-trip property that X4 and conflict C7 give; it rests on D3 and D4. -/
def Obligations.SentFrequencyDecodesToRoundedValue : Prop :=
  ∀ (s : State) (v : Rat), s.inProgress = none → s.wf ≠ .rect → 0 ≤ v →
    ∃ lsb msb ctl t, exec (.encHz v) s = .next t ∧
      t.history = s.history ++ transmissions s.dbg [lsb, msb, ctl] ∧
      (nearest (v * Config.kconv) ≤ 0x7FFFFFF →
        ((recombine lsb msb).toNat : Int) = nearest (v * Config.kconv)) ∧
      (0x8000000 ≤ nearest (v * Config.kconv) → (recombine lsb msb).toNat = 0x7FFFFFF)

/-- No encoder operation sends a Freq1 or Phase word, and its control words are the five. R32 and R49, which the spec marks as derived. -/
def Obligations.EncoderReachesControlAndFreq0Only : Prop :=
  ∀ (s : State) (v : Rat) (i : Instr), s.inProgress = none →
    i = .encHz v ∨ i = .encRaw v ∨ i = .chipReset →
    ∃ ws t, exec i s = .next t ∧ t.history = s.history ++ transmissions s.dbg ws ∧
      ∀ w ∈ ws, addressOf w = 1 ∨ w ∈ [0x2000, 0x2002, 0x2020, 0x2028, 0x2100]

/-- TX16 sends the word: trace if DBG = 1, FSYNC low, sixteen bits MSB first, FSYNC high. R86. What the transmitter's registers hold afterwards is not part of it; WireWordsAreSentUnchanged says it. -/
def Obligations.Tx16SendsTraceFrameAndSixteenBits : Prop :=
  ∀ (s : State) (w : Word), s.inProgress = none →
    ∃ t, exec (.tx16 w) s = .next t ∧
      t.history = s.history ++ ((if s.dbg then [Event.trace w] else []) ++ [Event.set .fsync false] ++
        [15, 14, 13, 12, 11, 10, 9, 8, 7, 6, 5, 4, 3, 2, 1, 0].flatMap (fun i =>
          [Event.set .data (w.getLsbD i), Event.set .clock false, Event.set .clock true]) ++
        [Event.set .fsync true]) ∧
      t.data = w.getLsbD 0 ∧ t.clock = true ∧ t.fsync = true ∧ t.busy = false ∧
      t = { s with
        data := t.data
        clock := t.clock
        fsync := t.fsync
        sr := t.sr
        bitcnt := t.bitcnt
        ph := t.ph
        widx := t.widx
        inProgress := t.inProgress
        history := t.history }

/-- A frame has fifty events, and the index formula gives each of them. R87, which the spec marks as derived from R86, R75, R79. -/
def Obligations.FrameHasFiftyEventsInOrder : Prop :=
  ∀ w : Word,
    transmission false w = frame w ∧ transmission true w = .trace w :: frame w ∧
    (frame w).length = 50 ∧ (frame w)[0]? = some (.set .fsync false) ∧
    (frame w)[49]? = some (.set .fsync true) ∧
    (∀ k, 1 ≤ k → k ≤ 48 → (frame w)[k]? = some (
      if (k - 1) % 3 = 0 then .set .data (w.getLsbD (15 - (k - 1) / 3))
      else if (k - 1) % 3 = 1 then .set .clock false
      else .set .clock true)) ∧
    ∀ (r : RegVal) (t : Waveform),
      (transmissions false (encWords r t)).length = 150 ∧ (transmissions true (encWords r t)).length = 153 ∧
      (transmissions false [resetWord]).length = 50 ∧ (transmissions true [resetWord]).length = 51

/-- Each wire-word instruction sends the word it stands for. R48, R46, R56, R60. That a row of the WIRE16 group is the instruction "send this word" is the model's choice (log entry 8). That the transmitter's registers are at rest afterwards (SR = 0, BITCNT = 0, PH = DATA_PH) is log entry 7. -/
def Obligations.WireWordInstructionsSendTheirWord : Prop :=
  ∀ (s : State) (p : Payload), s.inProgress = none →
    exec .ctrlSine s = .next (s.sent [0x2000]) ∧
    exec .ctrlTriangle s = .next (s.sent [0x2002]) ∧
    exec .ctrlRectHalf s = .next (s.sent [0x2020]) ∧
    exec .ctrlRect s = .next (s.sent [0x2028]) ∧
    exec .ctrlReset s = .next (s.sent [0x2100]) ∧
    exec (.freq0Data p) s = .next (s.sent [wireWord 0b01 p]) ∧
    exec (.freq1Data p) s = .next (s.sent [wireWord 0b10 p]) ∧
    exec (.phaseData p) s = .next (s.sent [wireWord 0b11 p]) ∧
    exec (.ctrlOther p) s = .next (s.sent [wireWord 0b00 p])

/-- Every one of the 65,536 words is sent unchanged, whatever its class. R56 and R60: TX16 sends any of the 65,536 values. The wire port is the model's (log entry 8). That the transmitter's registers are at rest afterwards (SR = 0, BITCNT = 0, PH = DATA_PH) is log entry 7. -/
def Obligations.WireWordsAreSentUnchanged : Prop :=
  ∀ (s : State) (w : Word), s.inProgress = none →
    exec (decode (.wire w)) s = .next (s.sent [w]) ∧ exec (.tx16 w) s = .next (s.sent [w])

/-- A receiver sampling DATA on either clock edge collects the word MSB first. R89, which the spec marks as derived from R86 and R93. -/
def Obligations.ReceiverOnEitherEdgeCollectsTheWord : Prop :=
  ∀ (e : Edge) (r : Receiver) (dbg : Bool) (w : Word), r.clock = true → r.fsync = true →
    (transmission dbg w).foldl (Receiver.observe e) r =
      { data := w.getLsbD 0, clock := true, fsync := true, bits := [], words := r.words ++ [w] }

/-- DBG adds one Trace before each frame and touches no line event; the frame's shape is the same for every word. R92, R94, R139. -/
def Obligations.DebugFlagAddsOnlyTheTrace : Prop :=
  (∀ (dbg : Bool) (ws : List Word),
      (transmissions dbg ws).filter Event.isSet = ws.flatMap frame ∧
      transmissions true ws = ws.flatMap (fun w => .trace w :: frame w) ∧
      transmissions false ws = ws.flatMap frame) ∧
    ∀ (w w' : Word) (k : Nat),
      (frame w)[k]? = (frame w')[k]? ∨
        ∃ b b', (frame w)[k]? = some (.set .data b) ∧ (frame w')[k]? = some (.set .data b')

/-- The micro-step sequencer performs exactly the operation: its transitions end in the state exec answers. R90: the event sequence this machine produces for a word is exactly that of R86. The micro-steps are the spec's decision D11. -/
def Obligations.MicroStepsGiveTheWholeOperation : Prop :=
  ∀ (i : Instr) (s : State), s.Inv → s.inProgress = none →
    exec i s = .next ((accept i s).ticks (accept i s).remaining)

/-- A run of single transitions and a step of a whole operation give the same state. R90, R91. The two granularities are the model's (log entries 2 and 3). -/
def Obligations.StepByStepRunAgreesWithWholeOperation : Prop :=
  ∀ (s : State) (inp : Input) (rest : List Input) (n : Nat),
    s.Inv → s.inProgress = none → s.inputs = inp :: rest → s.resetPlan = [] →
    1 + (accept (decode inp) { s with inputs := rest }).remaining ≤ n →
    ∃ t, step s = .next t ∧
      core.run (1 + (accept (decode inp) { s with inputs := rest }).remaining)
          ({ s with resetPlan := [n] } : State) =
        .next ({ t with
          resetPlan := [n - (1 + (accept (decode inp) { s with inputs := rest }).remaining)] } : State)

/-- An operation in progress ends after exactly its remaining transitions, at most 150, and not before. R91 and R136: every operation terminates after a fixed finite number of steps. -/
def Obligations.OperationTakesItsRemainingTransitions : Prop :=
  ∀ s : State, s.Inv →
    s.remaining ≤ 150 ∧ (s.remaining = 0 ↔ s.busy = false) ∧
    (∀ n < s.remaining, (s.ticks n).busy = true) ∧ (s.ticks s.remaining).busy = false

/-- A command presented while the block is busy waits: the operation in progress completes first, and is not changed. R83; the wait is the spec's decision D14. -/
def Obligations.CommandPresentedWhileBusyWaits : Prop :=
  ∀ (i : Instr) (s : State), s.Inv →
    (s.ticks s.remaining).busy = false ∧ s.history <+: (s.ticks s.remaining).history ∧
    exec i s = exec i (s.ticks s.remaining)

/-- Every step keeps the invariant: idle levels, legal sequencer positions, levels as the history says, register and counter ranges. R93, R15, R19, R96, R17, R23, R24, R25; several of these the spec marks as derived or decided. Where the step is a reset, the range of REGV rests on log entry 4, the model's choice. -/
def Obligations.StepKeepsTheInvariant : Prop :=
  ∀ s t : State, s.Inv → step s = .next t → t.Inv

/-- The reset state meets the invariant. R146, R14, R19, R22 to R26, with the spec's decisions D9, D11 and D20 (log entries 5 and 14). R146 leaves REGV open: that it lies in [0, REG_MAX], as R17 says of it at all times, holds at reset by log entry 4, the model's choice. -/
def Obligations.ResetMeetsTheInvariant : Prop :=
  State.reset.Inv

/-- Along every run, whenever the block is idle CLOCK and FSYNC are high. R93, R15, R96, which the spec marks as derived. -/
def Obligations.ReachableIdleStatesHaveIdleLevels : Prop :=
  ∀ (s t : State) (k : Nat), s.Inv → core.run k s = .next t → t.busy = false →
    t.clock = true ∧ t.fsync = true ∧ ∀ l : Line, t.line l = levelAfter l t.history

/-- Instructions and steps only append to the event history. R16, R39: nothing is dropped or reordered. That the history restarts at reset is R146. -/
def Obligations.HistoryOnlyGrows : Prop :=
  (∀ (i : Instr) (s t : State), exec i s = .next t → s.history <+: t.history) ∧
    ∀ s t : State, s.resetPlan.head? ≠ some 0 → step s = .next t → s.history <+: t.history

/-- WF is changed only by SETWF and by the bytes S, T, N that issue it; DBG only by SETDBG and the byte Z. R11, R12, R138. That the encoder's switch to Rectangle-HalfFrequency leaves WF alone is decision D6. -/
def Obligations.OnlySetwfChangesTheWaveform : Prop :=
  ∀ (i : Instr) (s t : State), exec i s = .next t →
    (t.wf ≠ s.wf → (∃ c, i = .setwf c) ∨ (∃ l, i = .sineS l ∨ i = .triangleT l ∨ i = .rawN l)) ∧
    (t.dbg ≠ s.dbg → (∃ b, i = .setdbg b) ∨ (∃ l, i = .debugZ l))

/-- No block operation and no wire word writes the host's registers or the outside world's. The columns of R27, which the spec marks as derived, for the six operations. R27 has no column for the wire-word instructions, which are the model's (log entry 8), and no row for the waiting work and the planned resets, the model's own fields (log entries 1 and 3). -/
def Obligations.BlockOperationsLeaveTheHostAlone : Prop :=
  ∀ (i : Instr) (s t : State), (∀ b, encode i ≠ .byte b) → exec i s = .next t →
    t.buf = s.buf ∧ t.ndig = s.ndig ∧ t.dmp = s.dmp ∧ t.mult = s.mult ∧ t.divExp = s.divExp ∧
    t.echo = s.echo ∧ t.inputs = s.inputs ∧ t.resetPlan = s.resetPlan

/-- No instruction and no step ever faults or is refused. R130 says it of the six operations of R53, R136 that no stuck state exists; that each of the 38 instructions and every step goes on is log entry 21, with log entry 8 for the wire words and log entry 10 for the reserved codes, which the spec would also let a model refuse. -/
def Obligations.EveryOperationCompletesNormally : Prop :=
  (∀ (i : Instr) (s : State), ∃ t, exec i s = .next t) ∧ (∀ s : State, ∃ t, step s = .next t) ∧
    ∀ _ : Fault, False

/-- A digit shifts into BUF, counts, and cancels the scale factors. R101. The saturation at 255 is decision D22, the order of the echo D21. -/
def Obligations.DigitShiftsIntoTheBuffer : Prop :=
  ∀ s : State, s.inProgress = none → ∀ p ∈ (
      [(.digit0, 0), (.digit1, 1), (.digit2, 2), (.digit3, 3), (.digit4, 4), (.digit5, 5), (.digit6, 6),
        (.digit7, 7), (.digit8, 8), (.digit9, 9)] : List (Instr × Digit)),
    exec p.1 s = .next
      { s with
        history := s.history ++ (if s.echo then [Event.echo (0x30 + BitVec.ofNat 8 p.2)] else [])
        buf :=
          if s.ndig = 0 then ⟨p.2, 0, 0, 0, 0, 0, 0, 0⟩
          else ⟨p.2, s.buf.d0, s.buf.d1, s.buf.d2, s.buf.d3, s.buf.d4, s.buf.d5, s.buf.d6⟩
        ndig := if s.ndig < 255 then s.ndig + 1 else 255
        mult := .one
        divExp := 0 }

/-- The decimal point sets DMP to NDIG + 1, overwriting an earlier mark, and changes nothing else. R102 (the echo is R108). -/
def Obligations.DecimalPointRecordsItsPosition : Prop :=
  ∀ s : State, s.inProgress = none →
    exec .point s = .next
      { s with dmp := s.ndig + 1, history := s.history ++ (if s.echo then [.echo 0x2E] else []) }

/-- K sets MULT to 1000 and M to 1000000, and nothing else changes. R103 (the echo is R108). -/
def Obligations.UnitSuffixSetsTheMultiplierOnly : Prop :=
  ∀ (s : State) (lower : Bool), s.inProgress = none →
    exec (.kiloK lower) s = .next
      { s with
        mult := .kilo
        history := s.history ++ (if s.echo then [.echo (letterByte 0x4B lower)] else []) } ∧
    exec (.megaM lower) s = .next
      { s with
        mult := .mega
        history := s.history ++ (if s.echo then [.echo (letterByte 0x4D lower)] else []) } ∧
    Scale.kilo.toNat = 1000 ∧ Scale.mega.toNat = 1000000

/-- finalize returns raw * MULT / DIV exactly, with DIV = 10^(NDIG - DMP + 1) when a marker and a digit exist. R104; the exact value is decision D3, the never negative exponent a derivation of the spec. -/
def Obligations.FinalizeComputesTheValue : Prop :=
  ∀ s : State, s.Inv →
    (s.dmp ≠ 0 → s.ndig ≠ 0 → (s.finalize.divExp : Int) = (s.ndig : Int) - s.dmp + 1) ∧
    (s.dmp = 0 ∨ s.ndig = 0 → s.finalize.divExp = s.divExp) ∧
    s.finalValue = (((s.buf.d0 : Nat) + 10 * s.buf.d1 + 10 ^ 2 * s.buf.d2 + 10 ^ 3 * s.buf.d3
      + 10 ^ 4 * s.buf.d4 + 10 ^ 5 * s.buf.d5 + 10 ^ 6 * s.buf.d6 + 10 ^ 7 * s.buf.d7 : Nat) : Rat)
        * (s.mult.toNat : Rat) / (s.finalize.div : Rat) ∧
    s.finalize.ndig = 0 ∧ s.finalize.dmp = 0 ∧ s.finalize.buf = s.buf ∧ s.finalize.mult = s.mult

/-- ? finalizes and emits one Help event; no block operation. R112, with R109. The place of the echo is the spec's decision D21 (log entry 15), a line end after each line the model's reading (log entry 13). -/
def Obligations.HelpFinalizesAndEmitsTheText : Prop :=
  ∀ s : State, s.inProgress = none →
    exec .help s = .next { s.finalized 0x3F with history := (s.finalized 0x3F).history ++ [.help] } ∧
    Event.help.transportBytes =
      ["TinyAD9833 Frequency Generator", "usage: <number>[STONED]", "<number>: 1..8 digits, opt. dot, k, M",
        "S:Sin, T:Tri, O:Off", "N: to reg, n*0.093 Hz Sin", "E: echo", "Z: debug"].flatMap
          (fun l => lineBytes l ++ Config.helpEol)

/-- E finalizes and sets ECHO to whether BUF[0] is not 0. R113. The echo of the E itself with ECHO as it was is the spec's decision D21 (log entry 15). -/
def Obligations.EchoCommandReadsDigitSlotZero : Prop :=
  ∀ (s : State) (lower : Bool), s.inProgress = none →
    exec (.echoE lower) s = .next
      { s.finalized (letterByte 0x45 lower) with echo := decide (s.buf.d0 ≠ 0) }

/-- N finalizes, sets WF to Sine and encodes the value raw. R114 with R68; it rests on D3 and D4 (log entries 11 and 12). The echo before the words' events is the spec's decision D21 (log entry 15). That the transmitter's registers are at rest afterwards (SR = 0, BITCNT = 0, PH = DATA_PH) is log entry 7. -/
def Obligations.RawCommandSetsSineAndEncodesRaw : Prop :=
  ∀ (s : State) (lower : Bool), s.inProgress = none →
    exec (.rawN lower) s = .next
      (({ s.finalized (letterByte 0x4E lower) with wf := .sine } : State).encoded
        (regValueOf s.finalValue) .sine)

/-- O finalizes and sends exactly the word 0x2100; WF is not changed. R115. The place of the echo is the spec's decision D21 (log entry 15), what the transmitter's registers hold afterwards log entry 7. -/
def Obligations.OffCommandSendsResetWordOnly : Prop :=
  ∀ (s : State) (lower : Bool), s.inProgress = none →
    exec (.offO lower) s = .next ((s.finalized (letterByte 0x4F lower)).sent [0x2100])

/-- S finalizes, sets WF to Sine and encodes the value in Hz. R116 with R67; it rests on D3 and D4 (log entries 11 and 12). The echo before the words' events is the spec's decision D21 (log entry 15). That the transmitter's registers are at rest afterwards (SR = 0, BITCNT = 0, PH = DATA_PH) is log entry 7. -/
def Obligations.SineCommandSetsSineAndEncodesHz : Prop :=
  ∀ (s : State) (lower : Bool), s.inProgress = none →
    exec (.sineS lower) s = .next
      (({ s.finalized (letterByte 0x53 lower) with wf := .sine } : State).encoded
        (regValueOf (s.finalValue * Config.kconv)) .sine)

/-- T finalizes, sets WF to Triangle and encodes the value in Hz. R117 with R67; it rests on D3 and D4 (log entries 11 and 12). The echo before the words' events is the spec's decision D21 (log entry 15). That the transmitter's registers are at rest afterwards (SR = 0, BITCNT = 0, PH = DATA_PH) is log entry 7. -/
def Obligations.TriangleCommandSetsTriangleAndEncodesHz : Prop :=
  ∀ (s : State) (lower : Bool), s.inProgress = none →
    exec (.triangleT lower) s = .next
      (({ s.finalized (letterByte 0x54 lower) with wf := .triangle } : State).encoded
        (regValueOf (s.finalValue * Config.kconv)) .triangle)

/-- Z finalizes and sets DBG to whether BUF[0] is not 0. R118. -/
def Obligations.DebugCommandReadsDigitSlotZero : Prop :=
  ∀ (s : State) (lower : Bool), s.inProgress = none →
    exec (.debugZ lower) s = .next
      { s.finalized (letterByte 0x5A lower) with dbg := decide (s.buf.d0 ≠ 0) } ∧
    (s.buf.d0 = 1 → ∃ t u es, exec (.debugZ lower) s = .next t ∧ exec (.offO lower) t = .next u ∧
      u.history = t.history ++ es ∧
      es.filter (· ≠ .echo (letterByte 0x4F lower)) = .trace 0x2100 :: frame 0x2100)

/-- Any other byte changes nothing; its only possible output is its echo. R119. -/
def Obligations.OtherByteOnlyEchoes : Prop :=
  (∀ (s : State) (b : Byte), s.inProgress = none →
      exec (.otherByte b) s = .next
        { s with history := s.history ++ (if s.echo ∧ 0x20 ≤ b then [.echo b] else []) }) ∧
    ∀ b : Byte, b < 0x20 ∨ b = 0x20 ∨ 0x80 ≤ b ∨
        (0x41 ≤ b &&& 0xDF ∧ b &&& 0xDF ≤ 0x5A ∧
          b &&& 0xDF ∉ [0x45, 0x4B, 0x4D, 0x4E, 0x4F, 0x53, 0x54, 0x5A]) →
      decode (.byte b) = .otherByte b

/-- A byte is echoed once, before anything else it does, exactly if ECHO = 1 and it is at least 0x20. R108, R107; the order of the echo is decision D21. -/
def Obligations.EveryPrintableByteIsEchoedFirst : Prop :=
  ∀ (s : State) (b : Byte), s.inProgress = none →
    ∃ t es, exec (decode (.byte b)) s = .next t ∧
      t.history = s.history ++ (if s.echo ∧ 0x20 ≤ b then [.echo b] else []) ++ es ∧
      ∀ c : Byte, Event.echo c ∉ es

/-- No host byte makes WF Rectangle or Rectangle-HalfFrequency, or sends a Freq1 or Phase word. R58, R120; R120 the spec marks as derived. That the echo stands before the transmissions is the spec's decision D21 (log entry 15). -/
def Obligations.HostNeverSelectsRectangle : Prop :=
  ∀ (s : State) (b : Byte), s.inProgress = none → s.wf ≠ .rect → s.wf ≠ .rectHalf →
    ∃ t es ws, exec (decode (.byte b)) s = .next t ∧ t.wf ≠ .rect ∧ t.wf ≠ .rectHalf ∧
      t.history = s.history ++ es ++ transmissions s.dbg ws ∧ (∀ e ∈ es, e.isSet = false) ∧
      ∀ w ∈ ws, addressOf w = 0 ∨ addressOf w = 1

/-- Every value the host hands over is a non-negative decimal fraction of at most 99,999,999,000,000. R105, which the spec marks as derived from R104, R22, R25. -/
def Obligations.FinalizedValueIsInRange : Prop :=
  ∀ s : State, s.Inv →
    (∃ n e : Nat, e ≤ 255 ∧ s.finalValue = (n : Rat) / 10 ^ e) ∧
    0 ≤ s.finalValue ∧ s.finalValue ≤ 99999999000000

/-- A command with no number typed since the last one reuses its value. R106 (a) and (b), R104, R161. -/
def Obligations.BareCommandReusesTheLastNumber : Prop :=
  ∀ s : State, s.finalize.finalValue = s.finalValue ∧
    s.finalize.onDecimalPoint.finalValue = s.finalValue ∧
    ∀ b : Byte, (s.finalize.echoByte b).finalValue = s.finalValue

/-- A step takes the first waiting item off the ports and runs the instruction it decodes to. R83, R148, R164. What a step is, and how work comes to the ports, is the model's (log entries 1 and 2). -/
def Obligations.StepRunsTheDecodedInstruction : Prop :=
  (∀ (s : State) (inp : Input) (rest : List Input), s.resetPlan = [] → s.inputs = inp :: rest →
      step s = exec (decode inp) { s with inputs := rest }) ∧
    (∀ s : State, s.resetPlan = [] → s.inputs = [] → step s = .next s.tick) ∧
    (∀ s : State, s.resetPlan = [] → s.inputs = [] → s.inProgress = none → step s = .next s) ∧
    ∀ (s : State) (nbits w : Nat) (i : Instr), decodeTableWord nbits w = some i →
      step (s.withFetchWord nbits w) = exec i { s with resetPlan := [] }

/-- The values after reset. R146; DATA and FSYNC are decision D9, the sequencer D11, the host's accumulator D20. -/
def Obligations.ResetGivesTheDocumentedValues : Prop :=
  State.reset.wf = .resetMidscale ∧ State.reset.dbg = false ∧ State.reset.clock = true ∧
    State.reset.fsync = true ∧ State.reset.data = false ∧ State.reset.busy = false ∧
    State.reset.bitcnt = 0 ∧ State.reset.widx = 0 ∧ State.reset.ph = .dataPh ∧
    State.reset.history = [] ∧ State.reset.echo = true ∧ State.reset.buf = ⟨0, 0, 0, 0, 0, 0, 0, 0⟩ ∧
    State.reset.ndig = 0 ∧ State.reset.dmp = 0 ∧ State.reset.mult.toNat = 1 ∧ State.reset.div = 1

/-- The reset input gives the reset state at once, also in the middle of an operation, and emits nothing. R145, R147, R149, R91; a reset input at all, and what it does mid-operation, are decision D9 (log entry 3); what State.reset holds in REGV, EWF and SR is log entry 4. -/
def Obligations.ResetInputActsAtOnceEvenMidFrame : Prop :=
  (∀ (s : State) (rest : List Nat), s.resetPlan = 0 :: rest →
      step s = .next { State.reset with inputs := s.inputs, resetPlan := rest }) ∧
    ∀ (s : State) (n : Nat) (rest : List Nat), s.resetPlan = (n + 1) :: rest → s.busy = true →
      ∃ t es, step s = .next t ∧ t.history = s.history ++ es ∧ es.length ≤ 2 ∧ t.resetPlan = n :: rest

/-- What is known of the chip after an ENC operation: the new frequency latched, the Reset state cleared last. R33 (c), R33 (d), R38, R40, R151, R159: the few sentences about the chip behind the block. The view is an observer of the model's (log entry 17), not behaviour of the block. -/
def Obligations.ChipLatchesTheEncodedFrequency : Prop :=
  (∀ (v : ChipView) (r : RegVal) (t : Waveform), v.b28 = some true → v.pairing = .aligned →
      (encWords r t).foldl ChipView.word v =
        { inReset := some (t == .resetMidscale), b28 := some true, pairing := .aligned, frequency := some r }) ∧
    (∀ (r : RegVal) (t : Waveform),
      chipView (resetWord :: encWords r t) =
        { inReset := some (t == .resetMidscale), b28 := some true, pairing := .aligned, frequency := some r }) ∧
    ∀ (r : RegVal) (t : Waveform),
      (chipView (encWords r t)).frequency = none ∧ (chipView (encWords r t)).pairing = .unknown

/-- ENC operations and CHIP_RESET, in any order after a first CHIP_RESET, keep the pairing of frequency words. R154, R155, R156, R158: the block guarantees the order for its own operations. Stated with the model's observer of the chip (log entry 17). -/
def Obligations.EncodeKeepsTheHostDuties : Prop :=
  ∀ ops : List (Option (RegVal × Waveform)),
    keepsPairing .powerUp (resetWord :: ops.flatMap (fun o =>
      match o with
      | some (r, t) => encWords r t
      | none => [resetWord])) = true

/-- The third word of an ENC operation is the literal control word of its waveform type. R48 with R78, R67, R68. The row of RESET_MIDSCALE in R48 the spec marks as derived, its use as decision D7, the missing adjustment of ENC_RAW as D8, the threshold in Hz as D5 (log entry 15). -/
def Obligations.ControlWordsAreTheFiveLiterals : Prop :=
  controlWord .sine = 0x2000 ∧ controlWord .triangle = 0x2002 ∧ controlWord .rect = 0x2028 ∧
    controlWord .rectHalf = 0x2020 ∧ controlWord .resetMidscale = 0x2100 ∧
    ∀ (s : State) (v : Rat), s.inProgress = none → ∀ p ∈ (
        [(.sine, 0x2000), (.triangle, 0x2002), (.rect, 0x2028), (.rectHalf, 0x2020),
          (.resetMidscale, 0x2100)] : List (Waveform × Word)),
      s.wf = p.1 →
      (∃ t lsb msb, exec (.encRaw v) s = .next t ∧
        t.history = s.history ++ transmissions s.dbg [lsb, msb, p.2]) ∧
      ∃ t lsb msb, exec (.encHz v) s = .next t ∧
        t.history = s.history ++ transmissions s.dbg
          [lsb, msb, if p.1 = .rect ∧ v < 12000000 then 0x2020 else p.2]
end

