-- ==== Sys2Proof/Laws/State.lean ====
section
/-! SUPPORT. The small lemmas of the state's named updates: for each update and each field, what the field
is afterwards, true by `rfl`. No later proof unfolds an update. -/

namespace Sys2Proof.Machine

/-! ### `State.play` -/

@[simp] theorem State.play_wf (s : State) (es : List Event) : (s.play es).wf = s.wf := rfl
@[simp] theorem State.play_dbg (s : State) (es : List Event) : (s.play es).dbg = s.dbg := rfl
@[simp] theorem State.play_data (s : State) (es : List Event) : (s.play es).data = levelFrom .data s.data es := rfl
@[simp] theorem State.play_clock (s : State) (es : List Event) : (s.play es).clock = levelFrom .clock s.clock es := rfl
@[simp] theorem State.play_fsync (s : State) (es : List Event) : (s.play es).fsync = levelFrom .fsync s.fsync es := rfl
@[simp] theorem State.play_regv (s : State) (es : List Event) : (s.play es).regv = s.regv := rfl
@[simp] theorem State.play_ewf (s : State) (es : List Event) : (s.play es).ewf = s.ewf := rfl
@[simp] theorem State.play_sr (s : State) (es : List Event) : (s.play es).sr = s.sr := rfl
@[simp] theorem State.play_bitcnt (s : State) (es : List Event) : (s.play es).bitcnt = s.bitcnt := rfl
@[simp] theorem State.play_ph (s : State) (es : List Event) : (s.play es).ph = s.ph := rfl
@[simp] theorem State.play_widx (s : State) (es : List Event) : (s.play es).widx = s.widx := rfl
@[simp] theorem State.play_inProgress (s : State) (es : List Event) : (s.play es).inProgress = s.inProgress := rfl
@[simp] theorem State.play_history (s : State) (es : List Event) : (s.play es).history = s.history ++ es := rfl
@[simp] theorem State.play_buf (s : State) (es : List Event) : (s.play es).buf = s.buf := rfl
@[simp] theorem State.play_ndig (s : State) (es : List Event) : (s.play es).ndig = s.ndig := rfl
@[simp] theorem State.play_dmp (s : State) (es : List Event) : (s.play es).dmp = s.dmp := rfl
@[simp] theorem State.play_mult (s : State) (es : List Event) : (s.play es).mult = s.mult := rfl
@[simp] theorem State.play_divExp (s : State) (es : List Event) : (s.play es).divExp = s.divExp := rfl
@[simp] theorem State.play_echo (s : State) (es : List Event) : (s.play es).echo = s.echo := rfl
@[simp] theorem State.play_inputs (s : State) (es : List Event) : (s.play es).inputs = s.inputs := rfl
@[simp] theorem State.play_resetPlan (s : State) (es : List Event) : (s.play es).resetPlan = s.resetPlan := rfl

/-! ### `State.restTransmitter` -/

@[simp] theorem State.restTransmitter_wf (s : State) : (s.restTransmitter).wf = s.wf := rfl
@[simp] theorem State.restTransmitter_dbg (s : State) : (s.restTransmitter).dbg = s.dbg := rfl
@[simp] theorem State.restTransmitter_data (s : State) : (s.restTransmitter).data = s.data := rfl
@[simp] theorem State.restTransmitter_clock (s : State) : (s.restTransmitter).clock = s.clock := rfl
@[simp] theorem State.restTransmitter_fsync (s : State) : (s.restTransmitter).fsync = s.fsync := rfl
@[simp] theorem State.restTransmitter_regv (s : State) : (s.restTransmitter).regv = s.regv := rfl
@[simp] theorem State.restTransmitter_ewf (s : State) : (s.restTransmitter).ewf = s.ewf := rfl
@[simp] theorem State.restTransmitter_sr (s : State) : (s.restTransmitter).sr = 0 := rfl
@[simp] theorem State.restTransmitter_bitcnt (s : State) : (s.restTransmitter).bitcnt = 0 := rfl
@[simp] theorem State.restTransmitter_ph (s : State) : (s.restTransmitter).ph = .dataPh := rfl
@[simp] theorem State.restTransmitter_widx (s : State) : (s.restTransmitter).widx = s.widx := rfl
@[simp] theorem State.restTransmitter_inProgress (s : State) : (s.restTransmitter).inProgress = s.inProgress := rfl
@[simp] theorem State.restTransmitter_history (s : State) : (s.restTransmitter).history = s.history := rfl
@[simp] theorem State.restTransmitter_buf (s : State) : (s.restTransmitter).buf = s.buf := rfl
@[simp] theorem State.restTransmitter_ndig (s : State) : (s.restTransmitter).ndig = s.ndig := rfl
@[simp] theorem State.restTransmitter_dmp (s : State) : (s.restTransmitter).dmp = s.dmp := rfl
@[simp] theorem State.restTransmitter_mult (s : State) : (s.restTransmitter).mult = s.mult := rfl
@[simp] theorem State.restTransmitter_divExp (s : State) : (s.restTransmitter).divExp = s.divExp := rfl
@[simp] theorem State.restTransmitter_echo (s : State) : (s.restTransmitter).echo = s.echo := rfl
@[simp] theorem State.restTransmitter_inputs (s : State) : (s.restTransmitter).inputs = s.inputs := rfl
@[simp] theorem State.restTransmitter_resetPlan (s : State) : (s.restTransmitter).resetPlan = s.resetPlan := rfl

/-! ### `State.start` -/

@[simp] theorem State.start_wf (s : State) (j : Job) : (s.start j).wf = s.wf := rfl
@[simp] theorem State.start_dbg (s : State) (j : Job) : (s.start j).dbg = s.dbg := rfl
@[simp] theorem State.start_data (s : State) (j : Job) : (s.start j).data = s.data := rfl
@[simp] theorem State.start_clock (s : State) (j : Job) : (s.start j).clock = s.clock := rfl
@[simp] theorem State.start_fsync (s : State) (j : Job) : (s.start j).fsync = s.fsync := rfl
@[simp] theorem State.start_regv (s : State) (j : Job) : (s.start j).regv = s.regv := rfl
@[simp] theorem State.start_ewf (s : State) (j : Job) : (s.start j).ewf = s.ewf := rfl
@[simp] theorem State.start_sr (s : State) (j : Job) : (s.start j).sr = s.sr := rfl
@[simp] theorem State.start_bitcnt (s : State) (j : Job) : (s.start j).bitcnt = s.bitcnt := rfl
@[simp] theorem State.start_ph (s : State) (j : Job) : (s.start j).ph = s.ph := rfl
@[simp] theorem State.start_widx (s : State) (j : Job) : (s.start j).widx = 0 := rfl
@[simp] theorem State.start_inProgress (s : State) (j : Job) : (s.start j).inProgress = some j := rfl
@[simp] theorem State.start_history (s : State) (j : Job) : (s.start j).history = s.history := rfl
@[simp] theorem State.start_buf (s : State) (j : Job) : (s.start j).buf = s.buf := rfl
@[simp] theorem State.start_ndig (s : State) (j : Job) : (s.start j).ndig = s.ndig := rfl
@[simp] theorem State.start_dmp (s : State) (j : Job) : (s.start j).dmp = s.dmp := rfl
@[simp] theorem State.start_mult (s : State) (j : Job) : (s.start j).mult = s.mult := rfl
@[simp] theorem State.start_divExp (s : State) (j : Job) : (s.start j).divExp = s.divExp := rfl
@[simp] theorem State.start_echo (s : State) (j : Job) : (s.start j).echo = s.echo := rfl
@[simp] theorem State.start_inputs (s : State) (j : Job) : (s.start j).inputs = s.inputs := rfl
@[simp] theorem State.start_resetPlan (s : State) (j : Job) : (s.start j).resetPlan = s.resetPlan := rfl

/-! ### `State.finish` -/

@[simp] theorem State.finish_wf (s : State) : (s.finish).wf = s.wf := rfl
@[simp] theorem State.finish_dbg (s : State) : (s.finish).dbg = s.dbg := rfl
@[simp] theorem State.finish_data (s : State) : (s.finish).data = s.data := rfl
@[simp] theorem State.finish_clock (s : State) : (s.finish).clock = s.clock := rfl
@[simp] theorem State.finish_fsync (s : State) : (s.finish).fsync = s.fsync := rfl
@[simp] theorem State.finish_regv (s : State) : (s.finish).regv = s.regv := rfl
@[simp] theorem State.finish_ewf (s : State) : (s.finish).ewf = s.ewf := rfl
@[simp] theorem State.finish_sr (s : State) : (s.finish).sr = s.sr := rfl
@[simp] theorem State.finish_bitcnt (s : State) : (s.finish).bitcnt = s.bitcnt := rfl
@[simp] theorem State.finish_ph (s : State) : (s.finish).ph = s.ph := rfl
@[simp] theorem State.finish_widx (s : State) : (s.finish).widx = 0 := rfl
@[simp] theorem State.finish_inProgress (s : State) : (s.finish).inProgress = none := rfl
@[simp] theorem State.finish_history (s : State) : (s.finish).history = s.history := rfl
@[simp] theorem State.finish_buf (s : State) : (s.finish).buf = s.buf := rfl
@[simp] theorem State.finish_ndig (s : State) : (s.finish).ndig = s.ndig := rfl
@[simp] theorem State.finish_dmp (s : State) : (s.finish).dmp = s.dmp := rfl
@[simp] theorem State.finish_mult (s : State) : (s.finish).mult = s.mult := rfl
@[simp] theorem State.finish_divExp (s : State) : (s.finish).divExp = s.divExp := rfl
@[simp] theorem State.finish_echo (s : State) : (s.finish).echo = s.echo := rfl
@[simp] theorem State.finish_inputs (s : State) : (s.finish).inputs = s.inputs := rfl
@[simp] theorem State.finish_resetPlan (s : State) : (s.finish).resetPlan = s.resetPlan := rfl

/-! ### `State.setWaveform` -/

@[simp] theorem State.setWaveform_wf (s : State) (t : Waveform) : (s.setWaveform t).wf = t := rfl
@[simp] theorem State.setWaveform_dbg (s : State) (t : Waveform) : (s.setWaveform t).dbg = s.dbg := rfl
@[simp] theorem State.setWaveform_data (s : State) (t : Waveform) : (s.setWaveform t).data = s.data := rfl
@[simp] theorem State.setWaveform_clock (s : State) (t : Waveform) : (s.setWaveform t).clock = s.clock := rfl
@[simp] theorem State.setWaveform_fsync (s : State) (t : Waveform) : (s.setWaveform t).fsync = s.fsync := rfl
@[simp] theorem State.setWaveform_regv (s : State) (t : Waveform) : (s.setWaveform t).regv = s.regv := rfl
@[simp] theorem State.setWaveform_ewf (s : State) (t : Waveform) : (s.setWaveform t).ewf = s.ewf := rfl
@[simp] theorem State.setWaveform_sr (s : State) (t : Waveform) : (s.setWaveform t).sr = s.sr := rfl
@[simp] theorem State.setWaveform_bitcnt (s : State) (t : Waveform) : (s.setWaveform t).bitcnt = s.bitcnt := rfl
@[simp] theorem State.setWaveform_ph (s : State) (t : Waveform) : (s.setWaveform t).ph = s.ph := rfl
@[simp] theorem State.setWaveform_widx (s : State) (t : Waveform) : (s.setWaveform t).widx = s.widx := rfl
@[simp] theorem State.setWaveform_inProgress (s : State) (t : Waveform) : (s.setWaveform t).inProgress = s.inProgress := rfl
@[simp] theorem State.setWaveform_history (s : State) (t : Waveform) : (s.setWaveform t).history = s.history := rfl
@[simp] theorem State.setWaveform_buf (s : State) (t : Waveform) : (s.setWaveform t).buf = s.buf := rfl
@[simp] theorem State.setWaveform_ndig (s : State) (t : Waveform) : (s.setWaveform t).ndig = s.ndig := rfl
@[simp] theorem State.setWaveform_dmp (s : State) (t : Waveform) : (s.setWaveform t).dmp = s.dmp := rfl
@[simp] theorem State.setWaveform_mult (s : State) (t : Waveform) : (s.setWaveform t).mult = s.mult := rfl
@[simp] theorem State.setWaveform_divExp (s : State) (t : Waveform) : (s.setWaveform t).divExp = s.divExp := rfl
@[simp] theorem State.setWaveform_echo (s : State) (t : Waveform) : (s.setWaveform t).echo = s.echo := rfl
@[simp] theorem State.setWaveform_inputs (s : State) (t : Waveform) : (s.setWaveform t).inputs = s.inputs := rfl
@[simp] theorem State.setWaveform_resetPlan (s : State) (t : Waveform) : (s.setWaveform t).resetPlan = s.resetPlan := rfl

/-! ### `State.setDebug` -/

@[simp] theorem State.setDebug_wf (s : State) (b : Bool) : (s.setDebug b).wf = s.wf := rfl
@[simp] theorem State.setDebug_dbg (s : State) (b : Bool) : (s.setDebug b).dbg = b := rfl
@[simp] theorem State.setDebug_data (s : State) (b : Bool) : (s.setDebug b).data = s.data := rfl
@[simp] theorem State.setDebug_clock (s : State) (b : Bool) : (s.setDebug b).clock = s.clock := rfl
@[simp] theorem State.setDebug_fsync (s : State) (b : Bool) : (s.setDebug b).fsync = s.fsync := rfl
@[simp] theorem State.setDebug_regv (s : State) (b : Bool) : (s.setDebug b).regv = s.regv := rfl
@[simp] theorem State.setDebug_ewf (s : State) (b : Bool) : (s.setDebug b).ewf = s.ewf := rfl
@[simp] theorem State.setDebug_sr (s : State) (b : Bool) : (s.setDebug b).sr = s.sr := rfl
@[simp] theorem State.setDebug_bitcnt (s : State) (b : Bool) : (s.setDebug b).bitcnt = s.bitcnt := rfl
@[simp] theorem State.setDebug_ph (s : State) (b : Bool) : (s.setDebug b).ph = s.ph := rfl
@[simp] theorem State.setDebug_widx (s : State) (b : Bool) : (s.setDebug b).widx = s.widx := rfl
@[simp] theorem State.setDebug_inProgress (s : State) (b : Bool) : (s.setDebug b).inProgress = s.inProgress := rfl
@[simp] theorem State.setDebug_history (s : State) (b : Bool) : (s.setDebug b).history = s.history := rfl
@[simp] theorem State.setDebug_buf (s : State) (b : Bool) : (s.setDebug b).buf = s.buf := rfl
@[simp] theorem State.setDebug_ndig (s : State) (b : Bool) : (s.setDebug b).ndig = s.ndig := rfl
@[simp] theorem State.setDebug_dmp (s : State) (b : Bool) : (s.setDebug b).dmp = s.dmp := rfl
@[simp] theorem State.setDebug_mult (s : State) (b : Bool) : (s.setDebug b).mult = s.mult := rfl
@[simp] theorem State.setDebug_divExp (s : State) (b : Bool) : (s.setDebug b).divExp = s.divExp := rfl
@[simp] theorem State.setDebug_echo (s : State) (b : Bool) : (s.setDebug b).echo = s.echo := rfl
@[simp] theorem State.setDebug_inputs (s : State) (b : Bool) : (s.setDebug b).inputs = s.inputs := rfl
@[simp] theorem State.setDebug_resetPlan (s : State) (b : Bool) : (s.setDebug b).resetPlan = s.resetPlan := rfl

/-! ### `State.onDigit` -/

@[simp] theorem State.onDigit_wf (s : State) (d : Digit) : (s.onDigit d).wf = s.wf := rfl
@[simp] theorem State.onDigit_dbg (s : State) (d : Digit) : (s.onDigit d).dbg = s.dbg := rfl
@[simp] theorem State.onDigit_data (s : State) (d : Digit) : (s.onDigit d).data = s.data := rfl
@[simp] theorem State.onDigit_clock (s : State) (d : Digit) : (s.onDigit d).clock = s.clock := rfl
@[simp] theorem State.onDigit_fsync (s : State) (d : Digit) : (s.onDigit d).fsync = s.fsync := rfl
@[simp] theorem State.onDigit_regv (s : State) (d : Digit) : (s.onDigit d).regv = s.regv := rfl
@[simp] theorem State.onDigit_ewf (s : State) (d : Digit) : (s.onDigit d).ewf = s.ewf := rfl
@[simp] theorem State.onDigit_sr (s : State) (d : Digit) : (s.onDigit d).sr = s.sr := rfl
@[simp] theorem State.onDigit_bitcnt (s : State) (d : Digit) : (s.onDigit d).bitcnt = s.bitcnt := rfl
@[simp] theorem State.onDigit_ph (s : State) (d : Digit) : (s.onDigit d).ph = s.ph := rfl
@[simp] theorem State.onDigit_widx (s : State) (d : Digit) : (s.onDigit d).widx = s.widx := rfl
@[simp] theorem State.onDigit_inProgress (s : State) (d : Digit) : (s.onDigit d).inProgress = s.inProgress := rfl
@[simp] theorem State.onDigit_history (s : State) (d : Digit) : (s.onDigit d).history = s.history := rfl
@[simp] theorem State.onDigit_buf (s : State) (d : Digit) : (s.onDigit d).buf = ((if s.ndig = 0 then DigitBuffer.zero else s.buf).push d) := rfl
@[simp] theorem State.onDigit_ndig (s : State) (d : Digit) : (s.onDigit d).ndig = min (s.ndig + 1) 255 := rfl
@[simp] theorem State.onDigit_dmp (s : State) (d : Digit) : (s.onDigit d).dmp = s.dmp := rfl
@[simp] theorem State.onDigit_mult (s : State) (d : Digit) : (s.onDigit d).mult = .one := rfl
@[simp] theorem State.onDigit_divExp (s : State) (d : Digit) : (s.onDigit d).divExp = 0 := rfl
@[simp] theorem State.onDigit_echo (s : State) (d : Digit) : (s.onDigit d).echo = s.echo := rfl
@[simp] theorem State.onDigit_inputs (s : State) (d : Digit) : (s.onDigit d).inputs = s.inputs := rfl
@[simp] theorem State.onDigit_resetPlan (s : State) (d : Digit) : (s.onDigit d).resetPlan = s.resetPlan := rfl

/-! ### `State.onDecimalPoint` -/

@[simp] theorem State.onDecimalPoint_wf (s : State) : (s.onDecimalPoint).wf = s.wf := rfl
@[simp] theorem State.onDecimalPoint_dbg (s : State) : (s.onDecimalPoint).dbg = s.dbg := rfl
@[simp] theorem State.onDecimalPoint_data (s : State) : (s.onDecimalPoint).data = s.data := rfl
@[simp] theorem State.onDecimalPoint_clock (s : State) : (s.onDecimalPoint).clock = s.clock := rfl
@[simp] theorem State.onDecimalPoint_fsync (s : State) : (s.onDecimalPoint).fsync = s.fsync := rfl
@[simp] theorem State.onDecimalPoint_regv (s : State) : (s.onDecimalPoint).regv = s.regv := rfl
@[simp] theorem State.onDecimalPoint_ewf (s : State) : (s.onDecimalPoint).ewf = s.ewf := rfl
@[simp] theorem State.onDecimalPoint_sr (s : State) : (s.onDecimalPoint).sr = s.sr := rfl
@[simp] theorem State.onDecimalPoint_bitcnt (s : State) : (s.onDecimalPoint).bitcnt = s.bitcnt := rfl
@[simp] theorem State.onDecimalPoint_ph (s : State) : (s.onDecimalPoint).ph = s.ph := rfl
@[simp] theorem State.onDecimalPoint_widx (s : State) : (s.onDecimalPoint).widx = s.widx := rfl
@[simp] theorem State.onDecimalPoint_inProgress (s : State) : (s.onDecimalPoint).inProgress = s.inProgress := rfl
@[simp] theorem State.onDecimalPoint_history (s : State) : (s.onDecimalPoint).history = s.history := rfl
@[simp] theorem State.onDecimalPoint_buf (s : State) : (s.onDecimalPoint).buf = s.buf := rfl
@[simp] theorem State.onDecimalPoint_ndig (s : State) : (s.onDecimalPoint).ndig = s.ndig := rfl
@[simp] theorem State.onDecimalPoint_dmp (s : State) : (s.onDecimalPoint).dmp = s.ndig + 1 := rfl
@[simp] theorem State.onDecimalPoint_mult (s : State) : (s.onDecimalPoint).mult = s.mult := rfl
@[simp] theorem State.onDecimalPoint_divExp (s : State) : (s.onDecimalPoint).divExp = s.divExp := rfl
@[simp] theorem State.onDecimalPoint_echo (s : State) : (s.onDecimalPoint).echo = s.echo := rfl
@[simp] theorem State.onDecimalPoint_inputs (s : State) : (s.onDecimalPoint).inputs = s.inputs := rfl
@[simp] theorem State.onDecimalPoint_resetPlan (s : State) : (s.onDecimalPoint).resetPlan = s.resetPlan := rfl

/-! ### `State.onUnitSuffix` -/

@[simp] theorem State.onUnitSuffix_wf (s : State) (m : Scale) : (s.onUnitSuffix m).wf = s.wf := rfl
@[simp] theorem State.onUnitSuffix_dbg (s : State) (m : Scale) : (s.onUnitSuffix m).dbg = s.dbg := rfl
@[simp] theorem State.onUnitSuffix_data (s : State) (m : Scale) : (s.onUnitSuffix m).data = s.data := rfl
@[simp] theorem State.onUnitSuffix_clock (s : State) (m : Scale) : (s.onUnitSuffix m).clock = s.clock := rfl
@[simp] theorem State.onUnitSuffix_fsync (s : State) (m : Scale) : (s.onUnitSuffix m).fsync = s.fsync := rfl
@[simp] theorem State.onUnitSuffix_regv (s : State) (m : Scale) : (s.onUnitSuffix m).regv = s.regv := rfl
@[simp] theorem State.onUnitSuffix_ewf (s : State) (m : Scale) : (s.onUnitSuffix m).ewf = s.ewf := rfl
@[simp] theorem State.onUnitSuffix_sr (s : State) (m : Scale) : (s.onUnitSuffix m).sr = s.sr := rfl
@[simp] theorem State.onUnitSuffix_bitcnt (s : State) (m : Scale) : (s.onUnitSuffix m).bitcnt = s.bitcnt := rfl
@[simp] theorem State.onUnitSuffix_ph (s : State) (m : Scale) : (s.onUnitSuffix m).ph = s.ph := rfl
@[simp] theorem State.onUnitSuffix_widx (s : State) (m : Scale) : (s.onUnitSuffix m).widx = s.widx := rfl
@[simp] theorem State.onUnitSuffix_inProgress (s : State) (m : Scale) : (s.onUnitSuffix m).inProgress = s.inProgress := rfl
@[simp] theorem State.onUnitSuffix_history (s : State) (m : Scale) : (s.onUnitSuffix m).history = s.history := rfl
@[simp] theorem State.onUnitSuffix_buf (s : State) (m : Scale) : (s.onUnitSuffix m).buf = s.buf := rfl
@[simp] theorem State.onUnitSuffix_ndig (s : State) (m : Scale) : (s.onUnitSuffix m).ndig = s.ndig := rfl
@[simp] theorem State.onUnitSuffix_dmp (s : State) (m : Scale) : (s.onUnitSuffix m).dmp = s.dmp := rfl
@[simp] theorem State.onUnitSuffix_mult (s : State) (m : Scale) : (s.onUnitSuffix m).mult = m := rfl
@[simp] theorem State.onUnitSuffix_divExp (s : State) (m : Scale) : (s.onUnitSuffix m).divExp = s.divExp := rfl
@[simp] theorem State.onUnitSuffix_echo (s : State) (m : Scale) : (s.onUnitSuffix m).echo = s.echo := rfl
@[simp] theorem State.onUnitSuffix_inputs (s : State) (m : Scale) : (s.onUnitSuffix m).inputs = s.inputs := rfl
@[simp] theorem State.onUnitSuffix_resetPlan (s : State) (m : Scale) : (s.onUnitSuffix m).resetPlan = s.resetPlan := rfl

/-! ### `State.finalize` -/

@[simp] theorem State.finalize_wf (s : State) : (s.finalize).wf = s.wf := rfl
@[simp] theorem State.finalize_dbg (s : State) : (s.finalize).dbg = s.dbg := rfl
@[simp] theorem State.finalize_data (s : State) : (s.finalize).data = s.data := rfl
@[simp] theorem State.finalize_clock (s : State) : (s.finalize).clock = s.clock := rfl
@[simp] theorem State.finalize_fsync (s : State) : (s.finalize).fsync = s.fsync := rfl
@[simp] theorem State.finalize_regv (s : State) : (s.finalize).regv = s.regv := rfl
@[simp] theorem State.finalize_ewf (s : State) : (s.finalize).ewf = s.ewf := rfl
@[simp] theorem State.finalize_sr (s : State) : (s.finalize).sr = s.sr := rfl
@[simp] theorem State.finalize_bitcnt (s : State) : (s.finalize).bitcnt = s.bitcnt := rfl
@[simp] theorem State.finalize_ph (s : State) : (s.finalize).ph = s.ph := rfl
@[simp] theorem State.finalize_widx (s : State) : (s.finalize).widx = s.widx := rfl
@[simp] theorem State.finalize_inProgress (s : State) : (s.finalize).inProgress = s.inProgress := rfl
@[simp] theorem State.finalize_history (s : State) : (s.finalize).history = s.history := rfl
@[simp] theorem State.finalize_buf (s : State) : (s.finalize).buf = s.buf := rfl
@[simp] theorem State.finalize_ndig (s : State) : (s.finalize).ndig = 0 := rfl
@[simp] theorem State.finalize_dmp (s : State) : (s.finalize).dmp = 0 := rfl
@[simp] theorem State.finalize_mult (s : State) : (s.finalize).mult = s.mult := rfl
@[simp] theorem State.finalize_divExp (s : State) : (s.finalize).divExp = s.finalExp := rfl
@[simp] theorem State.finalize_echo (s : State) : (s.finalize).echo = s.echo := rfl
@[simp] theorem State.finalize_inputs (s : State) : (s.finalize).inputs = s.inputs := rfl
@[simp] theorem State.finalize_resetPlan (s : State) : (s.finalize).resetPlan = s.resetPlan := rfl

/-! ### `State.applyReset` -/

@[simp] theorem State.applyReset_wf (s : State) : s.applyReset.wf = State.reset.wf := rfl
@[simp] theorem State.applyReset_dbg (s : State) : s.applyReset.dbg = State.reset.dbg := rfl
@[simp] theorem State.applyReset_data (s : State) : s.applyReset.data = State.reset.data := rfl
@[simp] theorem State.applyReset_clock (s : State) : s.applyReset.clock = State.reset.clock := rfl
@[simp] theorem State.applyReset_fsync (s : State) : s.applyReset.fsync = State.reset.fsync := rfl
@[simp] theorem State.applyReset_regv (s : State) : s.applyReset.regv = State.reset.regv := rfl
@[simp] theorem State.applyReset_ewf (s : State) : s.applyReset.ewf = State.reset.ewf := rfl
@[simp] theorem State.applyReset_sr (s : State) : s.applyReset.sr = State.reset.sr := rfl
@[simp] theorem State.applyReset_bitcnt (s : State) : s.applyReset.bitcnt = State.reset.bitcnt := rfl
@[simp] theorem State.applyReset_ph (s : State) : s.applyReset.ph = State.reset.ph := rfl
@[simp] theorem State.applyReset_widx (s : State) : s.applyReset.widx = State.reset.widx := rfl
@[simp] theorem State.applyReset_inProgress (s : State) : s.applyReset.inProgress = State.reset.inProgress := rfl
@[simp] theorem State.applyReset_history (s : State) : s.applyReset.history = State.reset.history := rfl
@[simp] theorem State.applyReset_buf (s : State) : s.applyReset.buf = State.reset.buf := rfl
@[simp] theorem State.applyReset_ndig (s : State) : s.applyReset.ndig = State.reset.ndig := rfl
@[simp] theorem State.applyReset_dmp (s : State) : s.applyReset.dmp = State.reset.dmp := rfl
@[simp] theorem State.applyReset_mult (s : State) : s.applyReset.mult = State.reset.mult := rfl
@[simp] theorem State.applyReset_divExp (s : State) : s.applyReset.divExp = State.reset.divExp := rfl
@[simp] theorem State.applyReset_echo (s : State) : s.applyReset.echo = State.reset.echo := rfl
@[simp] theorem State.applyReset_inputs (s : State) : s.applyReset.inputs = s.inputs := rfl
@[simp] theorem State.applyReset_resetPlan (s : State) : s.applyReset.resetPlan = s.resetPlan := rfl

end Sys2Proof.Machine
end

