-- ==== Sys2Proof/Laws/Ops.lean ====
section
/-! SUPPORT. One lemma for each shared operation, which says everything the operation does: events and
lines, the transmission of words, the completion of an operation, the wait while busy. -/

namespace Sys2Proof.Machine

/-! ## Events and lines -/

@[simp] theorem levelFrom_nil (l : Line) (b : Bool) : levelFrom l b [] = b := rfl

@[simp] theorem levelFrom_cons (l : Line) (b : Bool) (e : Event) (es : List Event) :
    levelFrom l b (e :: es) = levelFrom l (levelStep l b e) es := rfl

theorem levelFrom_append (l : Line) (b : Bool) (es fs : List Event) :
    levelFrom l b (es ++ fs) = levelFrom l (levelFrom l b es) fs := List.foldl_append

@[simp] theorem State.play_nil (s : State) : s.play [] = s := by simp [State.play]

@[simp] theorem State.play_play (s : State) (es fs : List Event) :
    (s.play es).play fs = s.play (es ++ fs) := by
  simp [State.play, levelFrom_append]

/-- The levels of the history follow the line registers through any events. -/
theorem State.levelsOk_play {s : State} (h : s.LevelsOk) (es : List Event) : (s.play es).LevelsOk := by
  obtain ⟨hd, hc, hf⟩ := h
  simp [State.LevelsOk, levelAfter, levelFrom_append, hd, hc, hf]

/-! ## The events of a word -/

theorem levelFrom_traceEvents (l : Line) (b dbg : Bool) (w : Word) :
    levelFrom l b (traceEvents dbg w) = b := by
  cases dbg <;> rfl

theorem levelFrom_bitsEvents_data (w : Word) (n : Nat) (b : Bool) :
    levelFrom .data b (bitsEvents w (n + 1)) = w.getLsbD 0 := by
  induction n generalizing b with
  | zero => rfl
  | succ n ih =>
    rw [bitsEvents, levelFrom_append, ih]

theorem levelFrom_bitsEvents_clock (w : Word) (n : Nat) (b : Bool) :
    levelFrom .clock b (bitsEvents w (n + 1)) = true := by
  induction n generalizing b with
  | zero => rfl
  | succ n ih =>
    rw [bitsEvents, levelFrom_append, ih]

/-- After a transmission DATA holds bit 0 of the word (R15), CLOCK and FSYNC are high (R93). -/
theorem levelFrom_transmission (l : Line) (b dbg : Bool) (w : Word) :
    levelFrom l b (transmission dbg w) = match l with
      | .data => w.getLsbD 0
      | .clock => true
      | .fsync => true := by
  rw [transmission, levelFrom_append, levelFrom_traceEvents, frame, levelFrom_cons, levelFrom_append]
  cases l
  · rw [levelFrom_bitsEvents_data]; rfl
  · rw [levelFrom_bitsEvents_clock]; rfl
  · rfl

/-- What TX16 leaves, its trace and frame included (R86). -/
theorem State.transmit_eq (w : Word) (s : State) :
    s.transmit w =
      { s with
        data := w.getLsbD 0
        clock := true
        fsync := true
        sr := 0
        bitcnt := 0
        ph := .dataPh
        history := s.history ++ transmission s.dbg w } := by
  simp [State.transmit, State.restTransmitter, State.play, levelFrom_transmission]

@[simp] theorem transmissions_nil (dbg : Bool) : transmissions dbg [] = [] := rfl

@[simp] theorem transmissions_cons (dbg : Bool) (w : Word) (ws : List Word) :
    transmissions dbg (w :: ws) = transmission dbg w ++ transmissions dbg ws := rfl

/-- Every control word the block forms has bit 0 clear (R47). -/
@[simp] theorem controlWord_bit0 (t : Waveform) : (controlWord t).getLsbD 0 = false := by
  cases t <;> decide

/-! ## Completion -/

theorem State.complete_idle {s : State} (h : s.inProgress = none) : s.complete = s := by
  simp [State.complete, h]

/-- A one-word operation just accepted leaves the state `sent` describes (R79, R86). -/
theorem State.complete_single {s : State} {w : Word} (h : s.inProgress = some (.single w)) :
    s.complete = s.sent [w] := by
  simp [State.complete, h, State.transmit_eq, State.finish, State.sent, lastBit]

/-- An ENC operation just accepted leaves the state `sent` describes (R75). -/
theorem State.complete_encode {s : State} (h : s.inProgress = some .encode) :
    s.complete = s.sent (encWords s.regv s.ewf) := by
  simp [State.complete, h, State.emit3, State.transmit_eq, State.finish, State.sent, lastBit, encWords]

@[simp] theorem State.sent_start (s : State) (j : Job) (ws : List Word) :
    (s.start j).sent ws = s.sent ws := rfl

@[simp] theorem State.complete_start_single (s : State) (w : Word) :
    (s.start (.single w)).complete = s.sent [w] := by
  rw [State.complete_single (w := w) rfl, State.sent_start]

@[simp] theorem State.complete_startEncode (s : State) (c : RegVal × Waveform) :
    (s.startEncode c).complete = s.encoded c.1 c.2 := by
  rw [State.startEncode, State.complete_encode rfl, State.sent_start]
  rfl

/-! ## Waiting and running -/

@[simp] theorem State.remaining_idle {s : State} (h : s.inProgress = none) : s.remaining = 0 := by
  simp [State.remaining, h]

/-- An idle block has nothing to wait for (R83). -/
@[simp] theorem State.waitIdle_idle {s : State} (h : s.inProgress = none) : s.waitIdle = s := by
  simp [State.waitIdle, State.remaining_idle h, State.ticks]

/-- An instruction on an idle block: its acceptance, then its completion. -/
theorem perform_idle {s : State} (h : s.inProgress = none) (accept : State → State) :
    perform accept s = .next (accept s).complete := by
  rw [perform, State.waitIdle_idle h]

/-- Every instruction is its acceptance, run by `perform`. -/
theorem exec_eq_perform (i : Instr) (s : State) : exec i s = perform (accept i) s := by
  cases i <;> rfl

@[simp] theorem State.busy_iff (s : State) : s.busy = false ↔ s.inProgress = none := by
  simp [State.busy]

end Sys2Proof.Machine
end

