-- ==== Sys2Proof/Laws/Operands.lean ====
section
/-! SUPPORT. The arithmetic of the encoder over the rationals: the integer formulas of `Operands.lean` are
the roundings, conversions and comparisons of 40_encoder.md R69 to R73. -/

namespace Sys2Proof.Machine

/-! ## Rounding -/

theorem floor_half (m : Int) (d : Nat) (hd : (0 : Rat) < d) :
    (2 * m + d) / (2 * d) = ⌊(m : Rat) / d + 1 / 2⌋ := by
  have e : (m : Rat) / d + 1 / 2 = ((2 * m + d : Int) : Rat) / ((2 * d : Nat) : Rat) := by
    push_cast
    field_simp
  rw [e, Rat.floor_intCast_div_natCast]
  push_cast
  rfl

/-- The integer formula rounds the rational it stands for (R72). -/
theorem Scaled.round_eq_nearest {q : Scaled} (h : q.den ≠ 0) : q.round = nearest q.toRat := by
  obtain ⟨n, d⟩ := q
  have hd : (0 : Rat) < d := by exact_mod_cast Nat.pos_of_ne_zero h
  have sign : (0 : Rat) ≤ (n : Rat) / d ↔ 0 ≤ n := by
    rw [le_div_iff₀ hd, zero_mul]
    exact_mod_cast Iff.rfl
  have neg := floor_half (-n) d hd
  push_cast [neg_div] at neg
  simp only [Scaled.round, nearest, Scaled.toRat, sign, ← floor_half n d hd, ← neg, mul_neg]

/-- `nearest` is within one half (R72). -/
theorem abs_nearest_sub_le (q : Rat) : |(nearest q : Rat) - q| ≤ 1 / 2 := by
  rw [abs_le]
  unfold nearest
  split
  · have h1 := Int.floor_le (q + 1 / 2)
    have h2 := Int.lt_floor_add_one (q + 1 / 2)
    constructor <;> linarith
  · have h1 := Int.floor_le (-q + 1 / 2)
    have h2 := Int.lt_floor_add_one (-q + 1 / 2)
    push_cast
    constructor <;> linarith

theorem nearest_mono {p q : Rat} (h : p ≤ q) : nearest p ≤ nearest q := by
  unfold nearest
  split_ifs with hp hq hq
  · exact Int.floor_le_floor (by linarith)
  · exact absurd (hp.trans h) hq
  · have : (0 : Int) ≤ ⌊-p + 1 / 2⌋ := Int.floor_nonneg.2 (by linarith)
    have : (0 : Int) ≤ ⌊q + 1 / 2⌋ := Int.floor_nonneg.2 (by linarith)
    omega
  · exact neg_le_neg (Int.floor_le_floor (by linarith))

/-! ## Clamping -/

theorem clamp_range (n : Int) : 0 ≤ clamp n 0 Config.regMax ∧ clamp n 0 Config.regMax ≤ Config.regMax := by
  unfold clamp Config.regMax
  split_ifs <;> omega

/-- No clamped value loses a bit in the 28-bit field (R5, R73). -/
theorem toNat_ofClamp (n : Int) :
    ((BitVec.ofNat 28 (clamp n 0 Config.regMax).toNat).toNat : Int) = clamp n 0 Config.regMax := by
  have h := clamp_range n
  rw [BitVec.toNat_ofNat, Nat.mod_eq_of_lt, Int.toNat_of_nonneg h.1]
  have : (Config.regMax : Int) < 2 ^ 28 := by decide
  omega

theorem clamp_mono {m n lo hi : Int} (h : m ≤ n) (hl : lo ≤ hi) : clamp m lo hi ≤ clamp n lo hi := by
  unfold clamp
  split_ifs <;> omega

@[simp] theorem Scaled.toNat_regValue (q : Scaled) :
    (q.regValue.toNat : Int) = clamp q.round 0 Config.regMax := toNat_ofClamp _

/-- A computed register value is at most REG_MAX (R17, R73). -/
theorem Scaled.regValue_le (q : Scaled) : q.regValue.toNat ≤ Config.regMax := by
  have h := clamp_range q.round
  rw [← Scaled.toNat_regValue] at h
  exact_mod_cast h.2

theorem Scaled.regValue_eq {q : Scaled} (h : q.den ≠ 0) : q.regValue = regValueOf q.toRat := by
  rw [Scaled.regValue, regValueOf, Scaled.round_eq_nearest h]

/-! ## Conversion -/

theorem scaleRaw_den (v : Rat) : (scaleRaw v).den ≠ 0 := v.den_nz

@[simp] theorem scaleRaw_toRat (v : Rat) : (scaleRaw v).toRat = v := Rat.num_div_den v

theorem scaleHz_den (v : Rat) : (scaleHz v).den ≠ 0 :=
  Nat.mul_ne_zero v.den_nz (by decide)

/-- The integer form of the conversion is `v * KCONV` (R70). -/
@[simp] theorem scaleHz_toRat (v : Rat) : (scaleHz v).toRat = v * Config.kconv := by
  have h : (v.den : Rat) ≠ 0 := by exact_mod_cast v.den_nz
  conv_rhs => rw [← Rat.num_div_den v]
  simp only [Scaled.toRat, scaleHz, Config.kconv]
  push_cast
  rw [div_mul_div_comm]

@[simp] theorem Scaled.double_toRat (q : Scaled) : q.double.toRat = 2 * q.toRat := by
  simp only [Scaled.toRat, Scaled.double]
  push_cast
  ring

/-- The integer form of the half-frequency test compares the operand in Hz (R69, R71). -/
theorem halfFrequency_iff (t : Waveform) (v : Rat) :
    halfFrequency t v = true ↔ t = .rect ∧ v < (Config.rectHalfLimit : Rat) := by
  have h : (0 : Rat) < v.den := by exact_mod_cast v.den_pos
  have e : v < (Config.rectHalfLimit : Rat) ↔ v.num < Config.rectHalfLimit * v.den := by
    conv_lhs => rw [← Rat.num_div_den v, div_lt_iff₀ h]
    exact_mod_cast Iff.rfl
  simp [halfFrequency, e]

/-- The compute step of ENC_HZ, over the rationals (R67). -/
theorem computeHz_eq (t : Waveform) (v : Rat) :
    computeHz t v = if t = .rect ∧ v < (Config.rectHalfLimit : Rat)
      then (regValueOf (2 * (v * Config.kconv)), .rectHalf) else (regValueOf (v * Config.kconv), t) := by
  have h := scaleHz_den v
  rw [computeHz, Scaled.regValue_eq h, Scaled.regValue_eq (q := (scaleHz v).double) h]
  simp [halfFrequency_iff]

/-- The compute step of ENC_RAW, over the rationals (R68). -/
theorem computeRaw_eq (t : Waveform) (v : Rat) : computeRaw t v = (regValueOf v, t) := by
  rw [computeRaw, Scaled.regValue_eq (scaleRaw_den v), scaleRaw_toRat]

theorem computeHz_le (t : Waveform) (v : Rat) : (computeHz t v).1.toNat ≤ Config.regMax := by
  unfold computeHz
  split <;> exact Scaled.regValue_le _

theorem computeRaw_le (t : Waveform) (v : Rat) : (computeRaw t v).1.toNat ≤ Config.regMax :=
  Scaled.regValue_le _

end Sys2Proof.Machine
end

