-- ==== Sys2Proof/Laws/Accept.lean ====
section
/-! SUPPORT. What accepting an instruction can do (`Accepted`, `accept_accepted`), said once for all of
them; and the closed form of each host operation. -/

namespace Sys2Proof.Machine

/-! ## Events that are no line sets -/

/-- Events other than `Set` move no line (R96). -/
theorem levelFrom_noSet (l : Line) (b : Bool) {es : List Event} (h : ∀ e ∈ es, e.isSet = false) :
    levelFrom l b es = b := by
  induction es generalizing b with
  | nil => rfl
  | cons e es ih =>
    have he : levelStep l b e = b := by
      cases e <;> first | rfl | simp [Event.isSet] at h
    rw [levelFrom_cons, he, ih _ fun e' h' => h e' (List.mem_cons_of_mem _ h')]

theorem echoEvents_noSet (echo : Bool) (c : Byte) : ∀ e ∈ echoEvents echo c, e.isSet = false := by
  unfold echoEvents
  split <;> simp [Event.isSet]

@[simp] theorem levelFrom_echoEvents (l : Line) (b echo : Bool) (c : Byte) :
    levelFrom l b (echoEvents echo c) = b := levelFrom_noSet l b (echoEvents_noSet echo c)

/-- The echo appends to the history and does nothing else (R108). -/
theorem State.echoByte_eq (c : Byte) (s : State) :
    s.echoByte c = { s with history := s.history ++ echoEvents s.echo c } := by
  simp [State.echoByte, State.play]

/-- The echo of a printable byte (R108). -/
theorem echoEvents_printable (echo : Bool) {c : Byte} (h : 0x20 ≤ c) :
    echoEvents echo c = if echo then [.echo c] else [] := by
  have h' : decide (0x20 ≤ c) = true := decide_eq_true h
  rw [echoEvents, h', Bool.and_true]

@[simp] theorem State.play_help (s : State) :
    s.play [.help] = { s with history := s.history ++ [.help] } := rfl

/-- A finalizing command byte: echo, then finalize (R107, R109). -/
theorem State.echo_finalize (c : Byte) (s : State) (h : 0x20 ≤ c) :
    (s.echoByte c).finalize = s.finalized c := by
  simp [State.echoByte_eq, State.finalize, State.finalized, State.finalExp, echoEvents_printable s.echo h]

theorem letterByte_printable {u : Byte} (h : u ∈ commandLetters) (lower : Bool) :
    0x20 ≤ letterByte u lower := by
  revert u lower
  decide

/-! ## Acceptance -/

/-- `t` is what accepting some instruction can make of `s`: events other than line sets are appended, the
lines, the transmitter and the outside world's queues are untouched, at most an operation is started at
its first word, and the ranges of REGV and of the host's counters are kept. -/
structure Accepted (s t : State) : Prop where
  history : ∃ es, t.history = s.history ++ es ∧ ∀ e ∈ es, e.isSet = false
  data : t.data = s.data
  clock : t.clock = s.clock
  fsync : t.fsync = s.fsync
  sr : t.sr = s.sr
  bitcnt : t.bitcnt = s.bitcnt
  ph : t.ph = s.ph
  inputs : t.inputs = s.inputs
  resetPlan : t.resetPlan = s.resetPlan
  started : t.inProgress = s.inProgress ∧ t.widx = s.widx ∨ ∃ j, t.inProgress = some j ∧ t.widx = 0
  register : s.RegisterOk → t.RegisterOk
  counters : s.CountersOk → t.CountersOk

theorem Accepted.refl (s : State) : Accepted s s where
  history := ⟨[], by simp⟩
  data := rfl
  clock := rfl
  fsync := rfl
  sr := rfl
  bitcnt := rfl
  ph := rfl
  inputs := rfl
  resetPlan := rfl
  started := .inl ⟨rfl, rfl⟩
  register := id
  counters := id

theorem Accepted.trans {s t u : State} (h : Accepted s t) (k : Accepted t u) : Accepted s u where
  history := by
    obtain ⟨es, he, hs⟩ := h.history
    obtain ⟨fs, hf, ht⟩ := k.history
    exact ⟨es ++ fs, by rw [hf, he, List.append_assoc],
      fun e he => (List.mem_append.1 he).elim (hs e) (ht e)⟩
  data := k.data.trans h.data
  clock := k.clock.trans h.clock
  fsync := k.fsync.trans h.fsync
  sr := k.sr.trans h.sr
  bitcnt := k.bitcnt.trans h.bitcnt
  ph := k.ph.trans h.ph
  inputs := k.inputs.trans h.inputs
  resetPlan := k.resetPlan.trans h.resetPlan
  started := by
    rcases k.started with ⟨a, b⟩ | ⟨j, a, b⟩
    · rcases h.started with ⟨c, d⟩ | ⟨j, c, d⟩
      · exact .inl ⟨a.trans c, b.trans d⟩
      · exact .inr ⟨j, a.trans c, b.trans d⟩
    · exact .inr ⟨j, a, b⟩
  register := k.register ∘ h.register
  counters := k.counters ∘ h.counters

theorem accepted_echoByte (c : Byte) (s : State) : Accepted s (s.echoByte c) := by
  rw [State.echoByte_eq]
  exact { Accepted.refl s with history := ⟨_, rfl, echoEvents_noSet _ _⟩ }

theorem accepted_start (j : Job) (s : State) : Accepted s (s.start j) :=
  { Accepted.refl s with started := .inr ⟨j, rfl, rfl⟩ }

theorem accepted_setWaveform (t : Waveform) (s : State) : Accepted s (s.setWaveform t) :=
  { Accepted.refl s with }

theorem accepted_setDebug (b : Bool) (s : State) : Accepted s (s.setDebug b) := { Accepted.refl s with }

theorem accepted_startEncode (s : State) (c : RegVal × Waveform) (h : c.1.toNat ≤ Config.regMax) :
    Accepted s (s.startEncode c) :=
  { Accepted.refl s with started := .inr ⟨.encode, rfl, rfl⟩, register := fun _ => h }

theorem accepted_finalize (s : State) : Accepted s s.finalize :=
  { Accepted.refl s with
    counters := fun ⟨hn, hd, he⟩ => by
      refine ⟨Nat.zero_le _, Nat.zero_le _, ?_⟩
      show s.finalExp ≤ 255
      unfold State.finalExp
      split <;> omega }

theorem accepted_onDigit (d : Digit) (s : State) : Accepted s (s.onDigit d) :=
  { Accepted.refl s with
    counters := fun ⟨hn, hd, he⟩ => by
      refine ⟨?_, ?_, ?_⟩ <;> simp only [State.onDigit_ndig, State.onDigit_dmp, State.onDigit_divExp] <;> omega }

theorem accepted_onDecimalPoint (s : State) : Accepted s s.onDecimalPoint :=
  { Accepted.refl s with
    counters := fun ⟨hn, hd, he⟩ => ⟨hn, by simp, he⟩ }

theorem accepted_onUnitSuffix (m : Scale) (s : State) : Accepted s (s.onUnitSuffix m) :=
  { Accepted.refl s with }

theorem accepted_setEcho (b : Bool) (s : State) : Accepted s { s with echo := b } := { Accepted.refl s with }

theorem accepted_help (s : State) : Accepted s (s.play [.help]) :=
  { Accepted.refl s with history := ⟨[.help], rfl, by simp [Event.isSet]⟩ }

theorem accepted_command (c : Byte) (s : State) : Accepted s (s.echoByte c).finalize :=
  (accepted_echoByte c s).trans (accepted_finalize _)

/-- Accepting an instruction, whatever it is (R90, R100). -/
theorem accept_accepted (i : Instr) (s : State) : Accepted s (accept i s) := by
  cases i with
  | setwf code =>
    show Accepted s (acceptSetwf code s)
    unfold acceptSetwf
    split
    · exact accepted_setWaveform _ s
    · exact .refl s
  | setdbg b => exact accepted_setDebug b s
  | encHz v => exact accepted_startEncode s _ (computeHz_le _ _)
  | encRaw v => exact accepted_startEncode s _ (computeRaw_le _ _)
  | reservedOp6 => exact .refl s
  | reservedOp7 => exact .refl s
  | point => exact (accepted_echoByte _ s).trans (accepted_onDecimalPoint _)
  | help => exact (accepted_command _ s).trans (accepted_help _)
  | echoE lower => exact (accepted_command _ s).trans (accepted_setEcho _ _)
  | kiloK lower => exact (accepted_echoByte _ s).trans (accepted_onUnitSuffix _ _)
  | megaM lower => exact (accepted_echoByte _ s).trans (accepted_onUnitSuffix _ _)
  | rawN lower =>
    exact ((accepted_command _ s).trans (accepted_setWaveform _ _)).trans
      (accepted_startEncode _ _ (computeRaw_le _ _))
  | offO lower => exact (accepted_command _ s).trans (accepted_start _ _)
  | sineS lower =>
    exact ((accepted_command _ s).trans (accepted_setWaveform _ _)).trans
      (accepted_startEncode _ _ (computeHz_le _ _))
  | triangleT lower =>
    exact ((accepted_command _ s).trans (accepted_setWaveform _ _)).trans
      (accepted_startEncode _ _ (computeHz_le _ _))
  | debugZ lower => exact (accepted_command _ s).trans (accepted_setDebug _ _)
  | otherByte b => exact accepted_echoByte b s
  | _ => first
    | exact accepted_start _ s
    | exact (accepted_echoByte _ s).trans (accepted_onDigit _ _)

end Sys2Proof.Machine
end

