-- ==== Sys2Proof/Laws/Table.lean ====
section
/-! SUPPORT. What the masks of the opcode table come to on the fields of a word: the row of a wire word by
its exact value and its address bits, the row of a command by its `op`, the row of a byte. -/

namespace Sys2Proof

/-! ## Fields of a wire word -/

/-- A word is its address bits and its payload (R45). -/
theorem wireWord_fields (w : Word) : wireWord (addressOf w) (payloadOf w) = w := by
  apply BitVec.eq_of_getLsbD_eq
  intro i hi
  simp only [wireWord, addressOf, payloadOf, BitVec.getLsbD_append, BitVec.getLsbD_extractLsb']
  by_cases h : i < 14
  · simp [h]
  · have h' : i - 14 < 2 := by omega
    simp [h, h', Nat.add_sub_cancel' (Nat.le_of_not_lt h)]

@[simp] theorem addressOf_wireWord (a : BitVec 2) (p : Payload) : addressOf (wireWord a p) = a := by
  apply BitVec.eq_of_getLsbD_eq
  intro i hi
  simp only [wireWord, addressOf, BitVec.getLsbD_append, BitVec.getLsbD_extractLsb']
  simp [hi]

@[simp] theorem payloadOf_wireWord (a : BitVec 2) (p : Payload) : payloadOf (wireWord a p) = p := by
  apply BitVec.eq_of_getLsbD_eq
  intro i hi
  simp only [wireWord, payloadOf, BitVec.getLsbD_append, BitVec.getLsbD_extractLsb']
  simp [hi]

/-- Words are equal when both fields are. -/
theorem wireWord_inj {a b : BitVec 2} {p q : Payload} : wireWord a p = wireWord b q ↔ a = b ∧ p = q := by
  constructor
  · intro h
    exact ⟨by simpa using congrArg addressOf h, by simpa using congrArg payloadOf h⟩
  · rintro ⟨rfl, rfl⟩
    rfl

/-- The mask 0xC000 keeps the address bits. -/
theorem and_addressMask (w : Word) : w &&& 0xC000 = wireWord (addressOf w) 0 := by
  apply BitVec.eq_of_getLsbD_eq
  intro i hi
  simp only [wireWord, addressOf, BitVec.getLsbD_append, BitVec.getLsbD_extractLsb', BitVec.getLsbD_and]
  interval_cases i <;> simp

theorem toNat_and_addressMask (w : Word) (a : BitVec 2) :
    (w.toNat &&& 0xC000 == (wireWord a 0).toNat) = decide (addressOf w = a) := by
  have h : w.toNat &&& 0xC000 = (w &&& 0xC000).toNat := rfl
  rw [h, and_addressMask, Bool.eq_iff_iff]
  simp [← BitVec.toNat_eq, wireWord_inj]

theorem toNat_and_wordMask (w c : Word) : (w.toNat &&& 0xFFFF == c.toNat) = decide (w = c) := by
  have h : w.toNat &&& 0xFFFF = w.toNat := by
    rw [show (0xFFFF : Nat) = 2 ^ 16 - 1 from rfl, Nat.and_two_pow_sub_one_eq_mod]
    exact Nat.mod_eq_of_lt w.isLt
  rw [h, Bool.eq_iff_iff]
  simp [← BitVec.toNat_eq]

/-- The row of a wire word: the five exact words first, then the address bits (R55, R56). -/
theorem tableRow_wire (w : Word) :
    (tableRow (.wire w)).map Row.mnemonic = some (
      if w = 0x2000 then "CTRL_SINE" else if w = 0x2002 then "CTRL_TRIANGLE"
      else if w = 0x2020 then "CTRL_RECT_HALF" else if w = 0x2028 then "CTRL_RECT"
      else if w = 0x2100 then "CTRL_RESET" else if addressOf w = 1 then "FREQ0_DATA"
      else if addressOf w = 2 then "FREQ1_DATA" else if addressOf w = 3 then "PHASE_DATA"
      else "CTRL_OTHER") := by
  have e (c : Word) := toNat_and_wordMask w c
  have a (c : BitVec 2) := toNat_and_addressMask w c
  have e1 := e 0x2000; have e2 := e 0x2002; have e3 := e 0x2020; have e4 := e 0x2028
  have e5 := e 0x2100; have a1 := a 1; have a2 := a 2; have a3 := a 3; have a0 := a 0
  have h0 : ¬addressOf w = 1 → ¬addressOf w = 2 → ¬addressOf w = 3 → addressOf w = 0 := by
    generalize addressOf w = x
    revert x
    decide
  simp only [wireWord, BitVec.toNat_ofNat, BitVec.reduceAppend, BitVec.reduceToNat, Nat.reducePow, Nat.reduceMod] at e1 e2 e3 e4 e5 a1 a2 a3 a0
  simp only [tableRow, opcodeTable, cmdRows, wireRows, byteRows, List.cons_append, List.nil_append,
    List.find?_cons, Row.matchesInput, Input.port, Input.matchBits, beq_self_eq_true, Bool.true_and,
    show (Port.cmd == Port.wire16) = false from rfl, Bool.false_and, e1, e2, e3, e4, e5, a1, a2, a3, a0]
  split_ifs <;> simp_all

/-- The row of a command: its `op` (R54, R55). -/
theorem tableRow_command (c : Command) :
    (tableRow (.command c)).map Row.mnemonic = some (
      if c.op = 0 then "SETWF" else if c.op = 1 then "SETDBG" else if c.op = 2 then "ENC_HZ"
      else if c.op = 3 then "ENC_RAW" else if c.op = 4 then "CHIP_RESET" else if c.op = 5 then "TX16"
      else if c.op = 6 then "RESERVED_OP6" else "RESERVED_OP7") := by
  have h : ∀ op : BitVec 3,
      (List.find? (fun r : Row => r.port == .cmd && op.toNat &&& r.mask == r.value) opcodeTable).map
        Row.mnemonic = some (
          if op = 0 then "SETWF" else if op = 1 then "SETDBG" else if op = 2 then "ENC_HZ"
          else if op = 3 then "ENC_RAW" else if op = 4 then "CHIP_RESET" else if op = 5 then "TX16"
          else if op = 6 then "RESERVED_OP6" else "RESERVED_OP7") := by decide
  exact h c.op

end Sys2Proof
end

