-- ==== Sys2Proof/Laws/PerInstr.lean ====
section
/-! SUPPORT. Statements made once for each instruction. Family `TableRow`: the port item an instruction
encodes to is matched, first in file order, by the instruction's own row of spec/opcode_table.json
(30_encoding.md R55). -/

namespace Sys2Proof.Laws.TableRow

/-- The encoded instruction falls under its own row of the opcode table. -/
def Statement (i : Instr) : Prop :=
  wellFormed i = true → (tableRow (encode i)).map Row.mnemonic = some i.mnemonic

theorem setwf (code : BitVec 3) : Statement (.setwf code) := fun _ => tableRow_command _

theorem setdbg (b : Bool) : Statement (.setdbg b) := fun _ => tableRow_command _

theorem encHz (v : Rat) : Statement (.encHz v) := fun _ => tableRow_command _

theorem encRaw (v : Rat) : Statement (.encRaw v) := fun _ => tableRow_command _

theorem chipReset : Statement (.chipReset) := fun _ => by decide

theorem tx16 (w : Word) : Statement (.tx16 w) := fun _ => tableRow_command _

theorem reservedOp6 : Statement (.reservedOp6) := fun _ => by decide

theorem reservedOp7 : Statement (.reservedOp7) := fun _ => by decide

theorem ctrlSine : Statement (.ctrlSine) := fun _ => by decide

theorem ctrlTriangle : Statement (.ctrlTriangle) := fun _ => by decide

theorem ctrlRectHalf : Statement (.ctrlRectHalf) := fun _ => by decide

theorem ctrlRect : Statement (.ctrlRect) := fun _ => by decide

theorem ctrlReset : Statement (.ctrlReset) := fun _ => by decide

theorem freq0Data (d : Payload) : Statement (.freq0Data d) := by
  have h (c : Word) (hc : addressOf c = 0) : wireWord 1 d ≠ c := fun e => by
    simpa [hc] using congrArg addressOf e
  intro _
  rw [encode, tableRow_wire, if_neg (h _ (by decide)), if_neg (h _ (by decide)), if_neg (h _ (by decide)),
    if_neg (h _ (by decide)), if_neg (h _ (by decide))]
  simp [Instr.mnemonic]

theorem freq1Data (p : Payload) : Statement (.freq1Data p) := by
  have h (c : Word) (hc : addressOf c = 0) : wireWord 2 p ≠ c := fun e => by
    simpa [hc] using congrArg addressOf e
  intro _
  rw [encode, tableRow_wire, if_neg (h _ (by decide)), if_neg (h _ (by decide)), if_neg (h _ (by decide)),
    if_neg (h _ (by decide)), if_neg (h _ (by decide))]
  simp [Instr.mnemonic]

theorem phaseData (p : Payload) : Statement (.phaseData p) := by
  have h (c : Word) (hc : addressOf c = 0) : wireWord 3 p ≠ c := fun e => by
    simpa [hc] using congrArg addressOf e
  intro _
  rw [encode, tableRow_wire, if_neg (h _ (by decide)), if_neg (h _ (by decide)), if_neg (h _ (by decide)),
    if_neg (h _ (by decide)), if_neg (h _ (by decide))]
  simp [Instr.mnemonic]

theorem ctrlOther (p : Payload) : Statement (.ctrlOther p) := by
  have h (c : Word) (hw : wireWord 0 p = c) : p = payloadOf c := by simp [← hw]
  intro hp
  simp only [wellFormed, exactControlPayloads, Bool.not_eq_true', List.contains_eq_mem,
    decide_eq_false_iff_not, List.mem_cons, not_or] at hp
  obtain ⟨h1, h2, h3, h4, h5, -⟩ := hp
  rw [encode, tableRow_wire, if_neg (fun e => h1 (h 0x2000 e)), if_neg (fun e => h2 (h 0x2002 e)),
    if_neg (fun e => h3 (h 0x2020 e)), if_neg (fun e => h4 (h 0x2028 e)), if_neg (fun e => h5 (h 0x2100 e))]
  simp [Instr.mnemonic]

theorem digit0 : Statement (.digit0) := fun _ => by decide

theorem digit1 : Statement (.digit1) := fun _ => by decide

theorem digit2 : Statement (.digit2) := fun _ => by decide

theorem digit3 : Statement (.digit3) := fun _ => by decide

theorem digit4 : Statement (.digit4) := fun _ => by decide

theorem digit5 : Statement (.digit5) := fun _ => by decide

theorem digit6 : Statement (.digit6) := fun _ => by decide

theorem digit7 : Statement (.digit7) := fun _ => by decide

theorem digit8 : Statement (.digit8) := fun _ => by decide

theorem digit9 : Statement (.digit9) := fun _ => by decide

theorem point : Statement (.point) := fun _ => by decide

theorem help : Statement (.help) := fun _ => by decide

theorem echoE (lower : Bool) : Statement (.echoE lower) := fun _ => by cases lower <;> decide

theorem kiloK (lower : Bool) : Statement (.kiloK lower) := fun _ => by cases lower <;> decide

theorem megaM (lower : Bool) : Statement (.megaM lower) := fun _ => by cases lower <;> decide

theorem rawN (lower : Bool) : Statement (.rawN lower) := fun _ => by cases lower <;> decide

theorem offO (lower : Bool) : Statement (.offO lower) := fun _ => by cases lower <;> decide

theorem sineS (lower : Bool) : Statement (.sineS lower) := fun _ => by cases lower <;> decide

theorem triangleT (lower : Bool) : Statement (.triangleT lower) := fun _ => by cases lower <;> decide

theorem debugZ (lower : Bool) : Statement (.debugZ lower) := fun _ => by cases lower <;> decide

theorem otherByte (b : Byte) : Statement (.otherByte b) := by
  revert b
  unfold Statement
  decide +kernel

end Sys2Proof.Laws.TableRow
end

