-- ==== Sys2Proof/Laws/Sequencer.lean ====
section
/-! SUPPORT. The sequencer of 41_bitlink.md R90: what one transition can do, and that each transition takes
one from the count of those remaining. -/

namespace Sys2Proof.Machine

/-! ## One transition -/

theorem State.tick_idle {s : State} (h : s.inProgress = none) : s.tick = s := by
  simp [State.tick, h]

theorem State.tick_load {s : State} {j : Job} (h : s.inProgress = some j) (hf : s.fsync = true)
    (hb : s.bitcnt = 0) : s.tick = s.load j := by
  simp [State.tick, h, hf, hb]

theorem State.tick_close {s : State} {j : Job} (h : s.inProgress = some j) (hf : s.fsync = false)
    (hb : s.bitcnt = 0) : s.tick = s.close j := by
  simp [State.tick, h, hf, hb]

theorem State.tick_bit {s : State} {j : Job} (h : s.inProgress = some j) (hf : s.fsync = false)
    (hb : s.bitcnt ≠ 0) : s.tick = s.bitStep := by
  simp [State.tick, h, hf, hb]

theorem State.ticks_add (m n : Nat) (s : State) : s.ticks (m + n) = (s.ticks m).ticks n := by
  induction m generalizing s with
  | zero => simp [State.ticks]
  | succ m ih => rw [Nat.succ_add]; exact ih s.tick

/-! ## What a transition leaves alone -/

/-- `t` differs from `s` only in the lines, the transmitter and the history, to which at most two events
are appended, the lines following them (R90, R91). -/
structure Ticked (s t : State) : Prop where
  played : ∃ es, t.history = s.history ++ es ∧ es.length ≤ 2 ∧
    ∀ l, t.line l = levelFrom l (s.line l) es
  wf : t.wf = s.wf
  dbg : t.dbg = s.dbg
  regv : t.regv = s.regv
  ewf : t.ewf = s.ewf
  buf : t.buf = s.buf
  ndig : t.ndig = s.ndig
  dmp : t.dmp = s.dmp
  mult : t.mult = s.mult
  divExp : t.divExp = s.divExp
  echo : t.echo = s.echo
  inputs : t.inputs = s.inputs
  resetPlan : t.resetPlan = s.resetPlan

theorem ticked_refl (s : State) : Ticked s s :=
  { played := ⟨[], by simp⟩, wf := rfl, dbg := rfl, regv := rfl, ewf := rfl, buf := rfl, ndig := rfl,
    dmp := rfl, mult := rfl, divExp := rfl, echo := rfl, inputs := rfl, resetPlan := rfl }

/-- Playing at most two events on a state that differs from `s` in the transmitter only. -/
theorem ticked_play (s : State) (sr : Word) (bitcnt : Nat) (ph : Phase) (widx : Nat)
    (inProgress : Option Job) (es : List Event) (h : es.length ≤ 2) :
    Ticked s (({ s with sr, bitcnt, ph, widx, inProgress } : State).play es) :=
  { ticked_refl s with played := ⟨es, rfl, h, fun l => by cases l <;> rfl⟩ }

theorem State.tick_ticked (s : State) : Ticked s s.tick := by
  unfold State.tick
  split
  · exact ticked_refl s
  · rename_i j _
    split
    · split
      · exact ticked_play s _ _ _ s.widx s.inProgress _ (by cases s.dbg <;> simp [traceEvents])
      · exact ticked_refl s
    · split
      · unfold State.close
        dsimp only
        split
        · exact ticked_play s s.sr s.bitcnt s.ph (s.widx + 1) s.inProgress [.set .fsync true] (by simp)
        · exact ticked_play s s.sr s.bitcnt s.ph 0 none [.set .fsync true] (by simp)
      · unfold State.bitStep
        split
        · exact ticked_play s s.sr s.bitcnt .clkLoPh s.widx s.inProgress _ (by simp)
        · exact ticked_play s s.sr s.bitcnt .clkHiPh s.widx s.inProgress _ (by simp)
        · exact ticked_play s _ _ .dataPh s.widx s.inProgress _ (by simp)

/-- What any number of transitions leaves alone, and that they append to the history. -/
structure Ran (s t : State) : Prop where
  history : s.history <+: t.history
  wf : t.wf = s.wf
  dbg : t.dbg = s.dbg
  buf : t.buf = s.buf
  ndig : t.ndig = s.ndig
  dmp : t.dmp = s.dmp
  mult : t.mult = s.mult
  divExp : t.divExp = s.divExp
  echo : t.echo = s.echo
  inputs : t.inputs = s.inputs
  resetPlan : t.resetPlan = s.resetPlan

theorem State.ticks_ran (n : Nat) (s : State) : Ran s (s.ticks n) := by
  induction n generalizing s with
  | zero => exact ⟨List.prefix_rfl, rfl, rfl, rfl, rfl, rfl, rfl, rfl, rfl, rfl, rfl⟩
  | succ n ih =>
    have t := s.tick_ticked
    have r := ih s.tick
    obtain ⟨es, he, -, -⟩ := t.played
    exact ⟨(he ▸ List.prefix_append _ _).trans r.history, r.wf.trans t.wf, r.dbg.trans t.dbg,
      r.buf.trans t.buf, r.ndig.trans t.ndig, r.dmp.trans t.dmp, r.mult.trans t.mult,
      r.divExp.trans t.divExp, r.echo.trans t.echo, r.inputs.trans t.inputs, r.resetPlan.trans t.resetPlan⟩

/-- What completing an operation just accepted leaves alone, and that it appends to the history. -/
theorem State.complete_ran (s : State) : Ran s s.complete := by
  unfold State.complete
  split
  · exact ⟨List.prefix_rfl, rfl, rfl, rfl, rfl, rfl, rfl, rfl, rfl, rfl, rfl⟩
  · simp only [State.emit3, State.transmit_eq, State.finish, List.append_assoc]
    exact ⟨List.prefix_append _ _, rfl, rfl, rfl, rfl, rfl, rfl, rfl, rfl, rfl, rfl⟩
  · simp only [State.transmit_eq, State.finish]
    exact ⟨List.prefix_append _ _, rfl, rfl, rfl, rfl, rfl, rfl, rfl, rfl, rfl, rfl⟩

/-! ## The invariant along a transition -/

/-- A transition keeps the levels in step with the history (R96). -/
theorem State.levelsOk_tick {s : State} (h : s.LevelsOk) : s.tick.LevelsOk := by
  obtain ⟨es, he, -, hl⟩ := s.tick_ticked.played
  obtain ⟨hd, hc, hf⟩ := h
  refine ⟨?_, ?_, ?_⟩
  · exact (hl .data).trans (by rw [he, levelAfter, levelFrom_append]; exact congrArg (levelFrom _ · es) hd)
  · exact (hl .clock).trans (by rw [he, levelAfter, levelFrom_append]; exact congrArg (levelFrom _ · es) hc)
  · exact (hl .fsync).trans (by rw [he, levelAfter, levelFrom_append]; exact congrArg (levelFrom _ · es) hf)

/-- While busy, a transition keeps the sequencer at a legal position and takes exactly one from the count
of transitions remaining (R90, R91). -/
theorem State.tick_position {s : State} (h : s.SequencerOk) (hb : s.busy = true) :
    s.tick.SequencerOk ∧ s.tick.remaining + 1 = s.remaining := by
  obtain ⟨j, hj⟩ := Option.isSome_iff_exists.1 hb
  simp only [State.SequencerOk, hj] at h
  obtain ⟨hw, hc, hf, h0, hk⟩ := h
  rcases hfs : s.fsync with - | -
  · by_cases hz : s.bitcnt = 0
    · have hp := h0 hz
      rw [State.tick_close hj hfs hz]
      by_cases hn : s.widx + 1 < j.words
      · simp [State.close, hn, State.SequencerOk, State.MidOperation, hj, hz, hp, hk, State.remaining, hfs,
          levelStep, Phase.done]
        omega
      · have : j.words - 1 - s.widx = 0 := by omega
        simp [State.close, hn, State.SequencerOk, State.Rested, State.finish, hj, hz, hp, hk, State.remaining,
          hfs, levelStep, Phase.done, this]
    · rw [State.tick_bit hj hfs hz]
      rcases hp : s.ph with - | - | -
      · simp [State.bitStep, hp, State.SequencerOk, State.MidOperation, hj, hfs, State.remaining, levelStep,
          Phase.done, hk, hz, hw, hc]
        omega
      · simp [State.bitStep, hp, State.SequencerOk, State.MidOperation, hj, hfs, State.remaining, levelStep,
          Phase.done, hz, hw, hc]
        omega
      · simp [State.bitStep, hp, State.SequencerOk, State.MidOperation, hj, hfs, State.remaining, levelStep,
          Phase.done, hw]
        omega
  · obtain ⟨hz, hp⟩ := hf hfs
    rw [State.tick_load hj hfs hz]
    simp [State.load, State.SequencerOk, State.MidOperation, hj, hfs, State.remaining, levelFrom_append,
      levelFrom_traceEvents, levelStep, Phase.done, hw, hk, hp]

/-- A transition keeps the invariant. -/
theorem State.inv_tick {s : State} (h : s.Inv) : s.tick.Inv := by
  by_cases hb : s.busy = true
  · obtain ⟨hs, hl, hr, hn⟩ := h
    have t := s.tick_ticked
    refine ⟨(State.tick_position hs hb).1, State.levelsOk_tick hl, ?_, ?_⟩
    · simpa only [State.RegisterOk, t.regv] using hr
    · simpa only [State.CountersOk, t.ndig, t.dmp, t.divExp] using hn
  · rw [State.tick_idle ((State.busy_iff s).1 (by simpa using hb))]
    exact h

theorem State.inv_ticks {s : State} (h : s.Inv) (n : Nat) : (s.ticks n).Inv := by
  induction n generalizing s with
  | zero => exact h
  | succ n ih => exact ih (State.inv_tick h)

/-! ## The invariant of a given state -/

theorem State.inv_of_idle {s : State} (hi : s.inProgress = none)
    (h : s.Rested ∧ s.LevelsOk ∧ s.RegisterOk ∧ s.CountersOk) : s.Inv :=
  ⟨by unfold State.SequencerOk; rw [hi]; exact h.1, h.2⟩

theorem State.inv_of_busy {s : State} {j : Job} (hi : s.inProgress = some j) (hm : s.MidOperation j.words)
    (h : s.LevelsOk ∧ s.RegisterOk ∧ s.CountersOk) : s.Inv :=
  ⟨by unfold State.SequencerOk; rw [hi]; exact hm, h⟩

/-! ## Runs -/

/-- A run whose first step answers `t` goes on from `t`. -/
theorem run_succ_of_core (M : Host.Core) {s t : M.State} {n : Nat} (h : M.step s = .next t) :
    M.run (n + 1) s = M.run n t := by
  rw [Host.Core.run, h]

/-- The same of this machine. -/
theorem run_succ {s t : State} {n : Nat} (h : step s = .next t) : core.run (n + 1) s = core.run n t :=
  run_succ_of_core core h

end Sys2Proof.Machine
end

