-- ==== Sys2Proof/Tests/Slice0.lean ====
section
/-! SUPPORT. The model's own tests: the well-formedness check, the decoding of a word written out for every
constructor, one step of every instruction with the result taken from the spec's vectors
(95_test_vectors.md X1 to X96, 41_bitlink.md R88) or worked out by hand from its rules, and for every
statement with hypotheses a state and operands that meet them. -/

namespace Sys2Proof.Tests

open Sys2Proof Sys2Proof.Machine

/-! ## Small states -/

/-- The state an outcome goes on with. -/
def after : Host.Outcome State Fault Refusal → Option State
  | .next s => some s
  | _ => none

/-- The words a receiver on the falling edge sees after an instruction. -/
def wordsAfter (i : Instr) (s : State) : Option (List Word) :=
  (after (exec i s)).map fun t => wordsReceived .falling t.history

/-- An idle state with a waveform selected. -/
def withWf (t : Waveform) : State := { State.reset with wf := t }

/-- An idle state in which digits have been typed. -/
def typed (buf : DigitBuffer) (ndig dmp : Nat) (mult : Scale) : State :=
  { State.reset with buf, ndig, dmp, mult }

/-- A state of a busy block: TX16 0x8001 accepted, FSYNC low, one bit sent (41_bitlink.md R90). -/
def midFrame : State := (State.reset.start (.single 0x8001)).ticks 4

/-- The digit values 1, 0, 0, 0 in BUF (X1). -/
def thousand : DigitBuffer := ⟨0, 0, 0, 1, 0, 0, 0, 0⟩

/-! ## Well-formedness: ill-formed terms are refused -/

/-- The five exact control words are not CTRL_OTHER (R49, R56). -/
theorem test_wellFormed_refuses_exact_control :
    ([0x2000, 0x2002, 0x2020, 0x2028, 0x2100] : List Payload).map (fun p => wellFormed (.ctrlOther p)) =
      [false, false, false, false, false] := by decide

/-- Bytes of the named classes are not OTHER_BYTE: digits, point, help, letters in both cases (R57). -/
theorem test_wellFormed_refuses_named_bytes :
    ([0x30, 0x39, 0x2E, 0x3F, 0x45, 0x65, 0x4B, 0x6B, 0x4D, 0x6D, 0x4E, 0x6E, 0x4F, 0x6F, 0x53, 0x73,
      0x54, 0x74, 0x5A, 0x7A] : List Byte).any (fun b => wellFormed (.otherByte b)) = false := by decide

/-- Neighbours of those, and a reserved waveform code, are well-formed (R57, R59). -/
theorem test_wellFormed_accepts : wellFormed (.ctrlOther 0x2001) = true ∧ wellFormed (.otherByte 0x2F) = true ∧
    wellFormed (.otherByte 0x3A) = true ∧ wellFormed (.otherByte 0x44) = true ∧ wellFormed (.setwf 7) = true := by
  decide

/-! ## Decoding: a word written out for every constructor -/

/-- Commands: `op` and operand as 30_encoding.md R54 lays them out; bits an `op` does not use are set. -/
theorem test_decode_commands :
    decode (.command ⟨0b000, 0b1111111111111100, 0⟩) = .setwf 4 ∧
    decode (.command ⟨0b001, 0b1111111111111110, 0⟩) = .setdbg false ∧
    decode (.command ⟨0b001, 0b0000000000000001, 0⟩) = .setdbg true ∧
    decode (.command ⟨0b010, 0xFFFF, 1000⟩) = .encHz 1000 ∧
    decode (.command ⟨0b011, 0xFFFF, -5⟩) = .encRaw (-5) ∧
    decode (.command ⟨0b100, 0xFFFF, 1⟩) = .chipReset ∧
    decode (.command ⟨0b101, 0b0110100111110001, 1⟩) = .tx16 0x69F1 ∧
    decode (.command ⟨0b110, 0xFFFF, 1⟩) = .reservedOp6 ∧
    decode (.command ⟨0b111, 0xFFFF, 1⟩) = .reservedOp7 := by decide

/-- Wire words: bit by bit from R46, R48; for each address the lowest and the highest payload (R56). -/
theorem test_decode_wire_words :
    decodeWire 0b0010000000000000 = .ctrlSine ∧ decodeWire 0b0010000000000010 = .ctrlTriangle ∧
    decodeWire 0b0010000000100000 = .ctrlRectHalf ∧ decodeWire 0b0010000000101000 = .ctrlRect ∧
    decodeWire 0b0010000100000000 = .ctrlReset ∧
    decodeWire 0b0100000000000000 = .freq0Data 0 ∧ decodeWire 0b0111111111111111 = .freq0Data 0x3FFF ∧
    decodeWire 0b1000000000000000 = .freq1Data 0 ∧ decodeWire 0b1011111111111111 = .freq1Data 0x3FFF ∧
    decodeWire 0b1100000000000000 = .phaseData 0 ∧ decodeWire 0b1111111111111111 = .phaseData 0x3FFF ∧
    decodeWire 0b0000000000000000 = .ctrlOther 0 ∧ decodeWire 0b0011111111111111 = .ctrlOther 0x3FFF ∧
    decodeWire 0b0010000000001000 = .ctrlOther 0x2008 := by decide

/-- Digits (R57). -/
theorem test_decode_digits :
    [0x30, 0x31, 0x32, 0x33, 0x34, 0x35, 0x36, 0x37, 0x38, 0x39].map decodeByte =
      [.digit0, .digit1, .digit2, .digit3, .digit4, .digit5, .digit6, .digit7, .digit8, .digit9] := by decide

/-- The other bytes, letters in both cases (R57). -/
theorem test_decode_commands_of_the_host :
    [0b00101110, 0b00111111].map decodeByte = [.point, .help] ∧
    [0b01000101, 0b01001011, 0b01001101, 0b01001110, 0b01001111, 0b01010011, 0b01010100, 0b01011010].map decodeByte =
      [.echoE false, .kiloK false, .megaM false, .rawN false, .offO false, .sineS false, .triangleT false,
        .debugZ false] ∧
    [0b01100101, 0b01101011, 0b01101101, 0b01101110, 0b01101111, 0b01110011, 0b01110100, 0b01111010].map decodeByte =
      [.echoE true, .kiloK true, .megaM true, .rawN true, .offO true, .sineS true, .triangleT true,
        .debugZ true] ∧
    [0b00000000, 0b00100000, 0b01000100, 0b11111111].map decodeByte =
      [.otherByte 0, .otherByte 0x20, .otherByte 0x44, .otherByte 0xFF] := by decide

/-- Bare table words: one row of each width, and the rows DIGIT_8 and DIGIT_9 as the table has them. -/
theorem test_decode_table_words :
    decodeTableWord 8 0x05 = some (.tx16 0) ∧ decodeTableWord 8 0x53 = some (.sineS false) ∧
    decodeTableWord 16 0x2028 = some .ctrlRect ∧ decodeTableWord 16 0x0138 = some .digit8 ∧
    decodeTableWord 16 0x0239 = some .digit9 ∧ decodeTableWord 0 0 = some (.otherByte 0) ∧
    decodeTableWord 24 0x69F105 = some (.tx16 0x69F1) ∧ decodeTableWord 32 0 = none := by decide

/-! ## The encoder operations (95_test_vectors.md parts 2.1 to 2.3) -/

/-- X65, X66: WF is written, no event. -/
theorem test_setwf : after (exec (.setwf 2) (withWf .sine)) = some (withWf .triangle) ∧
    after (exec (.setwf 4) (withWf .sine)) = some (withWf .rectHalf) := by decide +kernel

/-- X69a: a reserved code changes nothing. -/
theorem test_setwf_reserved : after (exec (.setwf 5) (withWf .sine)) = some (withWf .sine) := by decide +kernel

/-- X67. -/
theorem test_setdbg : after (exec (.setdbg true) State.reset) = some { State.reset with dbg := true } := by
  decide +kernel

/-- X69b. -/
theorem test_reservedOp6 : after (exec .reservedOp6 (withWf .sine)) = some (withWf .sine) := by decide +kernel

/-- X69b. -/
theorem test_reservedOp7 : after (exec .reservedOp7 (withWf .sine)) = some (withWf .sine) := by decide +kernel

/-- X13, X16, X26, X27, X29b, X29f, X29h, X29i, X29j, X29o, X29q: crossing bit 14, the clamp at both ends, ties. -/
theorem test_encHz : ∀ x ∈ ([
    (.sine, 1000, [0x69F1, 0x4000, 0x2000]), (.sine, 5000, [0x51B7, 0x4003, 0x2000]),
    (.sine, 12500000, [0x7FFF, 0x5FFF, 0x2000]), (.sine, 12499999, [0x7FF5, 0x5FFF, 0x2000]),
    (.triangle, 99999999000000, [0x7FFF, 0x5FFF, 0x2002]), (.sine, 1 / 20, [0x4001, 0x4000, 0x2000]),
    (.sine, -5, [0x4000, 0x4000, 0x2000]), (.sine, 390625 / 8388608, [0x4001, 0x4000, 0x2000]),
    (.sine, 1953125 / 8388608, [0x4003, 0x4000, 0x2000]), (.rectHalf, 5000000, [0x7333, 0x4CCC, 0x2020]),
    (.resetMidscale, 1000, [0x69F1, 0x4000, 0x2100])] : List (Waveform × Rat × List Word)),
    wordsAfter (.encHz x.2.1) (withWf x.1) = some x.2.2 := by decide +kernel

/-- X18, X21 to X25: doubling before rounding, the strict threshold, the clamp; WF stays RECT, EWF does not. -/
theorem test_encHz_rectangle : (∀ x ∈ ([
    (5000000, [0x6666, 0x5999, 0x2020]), (5, [0x406B, 0x4000, 0x2020]),
    (12000000, [0x547B, 0x5EB8, 0x2028]), (1199999999 / 100, [0x7FFF, 0x5FFF, 0x2020]),
    (6250000, [0x7FFF, 0x5FFF, 0x2020]), (6249999, [0x7FEB, 0x5FFF, 0x2020])] : List (Rat × List Word)),
    wordsAfter (.encHz x.1) (withWf .rect) = some x.2) ∧
    (after (exec (.encHz 5000000) (withWf .rect))).map (fun t => (t.wf, t.ewf, t.regv)) =
      some (.rect, .rectHalf, 0x6666666) := by decide +kernel

/-- X53, X54, X56 to X58, X60, X61, X63, X64: the halves of the register, ties, no adjustment, no wrap. -/
theorem test_encRaw : ∀ x ∈ ([
    (.sine, 16383, [0x7FFF, 0x4000, 0x2000]), (.sine, 16384, [0x4000, 0x4001, 0x2000]),
    (.sine, 134217727, [0x7FFF, 0x5FFF, 0x2000]), (.sine, 134217728, [0x7FFF, 0x5FFF, 0x2000]),
    (.sine, 99999999, [0x60FF, 0x57D7, 0x2000]), (.sine, 1 / 2, [0x4001, 0x4000, 0x2000]),
    (.sine, 5 / 2, [0x4003, 0x4000, 0x2000]), (.rect, 5000000, [0x4B40, 0x4131, 0x2028]),
    (.sine, 268435455, [0x7FFF, 0x5FFF, 0x2000])] : List (Waveform × Rat × List Word)),
    wordsAfter (.encRaw x.2.1) (withWf x.1) = some x.2.2 := by decide +kernel

/-- X68: one word, WF as it was, 50 events. -/
theorem test_chipReset :
    (after (exec .chipReset (withWf .triangle))).map (fun t => (t.wf, t.data, t.history.length)) =
      some (.triangle, false, 50) ∧
    wordsAfter .chipReset (withWf .triangle) = some [0x2100] := by decide +kernel

/-- X69, and the frame of R88 written out. -/
theorem test_chipReset_events :
    let d0 := [Event.set .data false, .set .clock false, .set .clock true]
    let d1 := [Event.set .data true, .set .clock false, .set .clock true]
    (after (exec .chipReset { State.reset with dbg := true })).map State.history =
      some ([.trace 0x2100, .set .fsync false] ++ d0 ++ d0 ++ d1 ++ d0 ++ d0 ++ d0 ++ d0 ++ d1
        ++ d0 ++ d0 ++ d0 ++ d0 ++ d0 ++ d0 ++ d0 ++ d0 ++ [.set .fsync true]) := by decide +kernel

/-! ## The Bit-Link (part 2.4) -/

/-- X71, X72, X74: the word arrives, DATA ends at its bit 0. -/
theorem test_tx16 : ∀ x ∈ ([(.tx16 0x69F1, 0x69F1, true), (.tx16 0xA5A5, 0xA5A5, true), (.tx16 0x0000, 0x0000, false),
    (.tx16 0xFFFF, 0xFFFF, true)] : List (Instr × Word × Bool)),
    wordsAfter x.1 State.reset = some [x.2.1] ∧
    (after (exec x.1 State.reset)).map (fun t => (t.data, t.clock, t.fsync)) = some (x.2.2, true, true) := by
  decide +kernel

/-- X73, X75, X76: the first data event carries bit 15; positions inside an ENC operation; traces. -/
theorem test_event_positions :
    (after (exec (.tx16 0x8001) State.reset)).map (fun t => t.history.take 4) =
      some [.set .fsync false, .set .data true, .set .clock false, .set .clock true] ∧
    (after (exec (.encHz 1000) (withWf .sine))).map
        (fun t => [t.history[4]?, t.history[49]?, t.history[50]?, t.history[54]?, t.history[107]?, t.history[149]?]) =
      some [some (.set .data true), some (.set .fsync true), some (.set .fsync false), some (.set .data true),
        some (.set .data true), some (.set .fsync true)] ∧
    (after (exec (.encHz 440) { withWf .triangle with dbg := true })).map
        (fun t => [t.history[0]?, t.history[51]?, t.history[102]?, t.history[101]?]) =
      some [some (.trace 0x5274), some (.trace 0x4000), some (.trace 0x2002), some (.set .fsync true)] := by
  decide +kernel

/-- X11, R46, R60: every class of wire word goes out as it is. -/
theorem test_wire_words : ∀ x ∈ ([
    (.ctrlSine, 0x2000), (.ctrlTriangle, 0x2002), (.ctrlRectHalf, 0x2020), (.ctrlRect, 0x2028),
    (.ctrlReset, 0x2100), (.freq0Data 0x29F1, 0x69F1), (.freq1Data 0x0001, 0x8001), (.phaseData 0x3FFF, 0xFFFF),
    (.ctrlOther 0x0000, 0x0000)] : List (Instr × Word)),
    wordsAfter x.1 State.reset = some [x.2] ∧ (after (exec x.1 State.reset)).map State.wf = some .resetMidscale := by
  decide +kernel

/-! ## The documented host (part 2.5) -/

/-- X10, X2: the ninth digit drops the oldest; a digit cancels the suffix; it is echoed. -/
theorem test_digit9_drops_oldest :
    (after (exec .digit9 { typed ⟨8, 7, 6, 5, 4, 3, 2, 1⟩ 8 0 .kilo with divExp := 1 })).map
        (fun t => (t.buf, t.ndig, t.mult, t.divExp, t.history)) =
      some (⟨9, 8, 7, 6, 5, 4, 3, 2⟩, 9, .one, 0, [.echo 0x39]) := by decide +kernel

/-- R101: the first digit after a finalize clears BUF; each digit byte brings its own digit. -/
theorem test_digits_start_a_number : ∀ x ∈ ([
    (.digit0, 0), (.digit1, 1), (.digit2, 2), (.digit3, 3), (.digit4, 4), (.digit5, 5), (.digit6, 6), (.digit7, 7),
    (.digit8, 8), (.digit9, 9)] : List (Instr × Digit)),
    (after (exec x.1 (typed ⟨7, 7, 7, 7, 7, 7, 7, 7⟩ 0 0 .one))).map (fun t => (t.buf, t.ndig)) =
      some (⟨x.2, 0, 0, 0, 0, 0, 0, 0⟩, 1) := by decide +kernel

/-- D22: the digit count stays at 255. -/
theorem test_digit_count_saturates :
    (after (exec .digit1 (typed thousand 255 0 .one))).map State.ndig = some 255 := by decide +kernel

/-- X3, X84, X9: the mark is NDIG + 1; a later point overwrites. -/
theorem test_point : (after (exec .point (typed thousand 1 0 .one))).map State.dmp = some 2 ∧
    (after (exec .point (typed thousand 2 2 .one))).map State.dmp = some 3 ∧
    (after (exec .point State.reset)).map State.dmp = some 1 := by decide +kernel

/-- X81, X82: K and M write MULT alone, the later overwrites. -/
theorem test_kiloK : after (exec (.kiloK true) (typed thousand 4 0 .one)) =
    some { typed thousand 4 0 .kilo with history := [.echo 0x6B] } := by decide +kernel

theorem test_megaM : after (exec (.megaM false) (typed thousand 4 0 .kilo)) =
    some { typed thousand 4 0 .mega with history := [.echo 0x4D] } := by decide +kernel

/-- X93: `?` finalizes and emits the text, and sends nothing. -/
theorem test_help : after (exec .help (typed thousand 4 0 .one)) =
    some { typed thousand 0 0 .one with history := [.echo 0x3F, .help] } := by decide +kernel

/-- X86: `10E` clears ECHO, and the `E` itself is still echoed. -/
theorem test_echoE : after (exec (.echoE false) (typed ⟨0, 1, 0, 0, 0, 0, 0, 0⟩ 2 0 .one)) =
    some { typed ⟨0, 1, 0, 0, 0, 0, 0, 0⟩ 0 0 .one with echo := false, history := [.echo 0x45] } := by decide +kernel

/-- X88, X89: `.5N`, `2.5N`. -/
theorem test_rawN :
    wordsAfter (.rawN false) (typed ⟨5, 0, 0, 0, 0, 0, 0, 0⟩ 1 1 .one) = some [0x4001, 0x4000, 0x2000] ∧
    wordsAfter (.rawN false) (typed ⟨5, 2, 0, 0, 0, 0, 0, 0⟩ 2 2 .one) = some [0x4003, 0x4000, 0x2000] ∧
    (after (exec (.rawN false) (typed ⟨5, 0, 0, 0, 0, 0, 0, 0⟩ 1 1 .one))).map (fun t => (t.wf, t.divExp)) =
      some (.sine, 1) := by decide +kernel

/-- X6: `O` sends 0x2100, WF as it was, the digits consumed. -/
theorem test_offO :
    wordsAfter (.offO true) { typed thousand 4 0 .one with wf := .triangle } = some [0x2100] ∧
    (after (exec (.offO true) { typed thousand 4 0 .one with wf := .triangle })).map
        (fun t => (t.wf, t.ndig, t.buf)) = some (.triangle, 0, thousand) := by decide +kernel

/-- X1, X8, X80, X85, X92: plain, with a suffix, bare after power-up, ten digits and a point, near the clamp. -/
theorem test_sineS : ∀ x ∈ ([
    (typed thousand 4 0 .one, [0x69F1, 0x4000, 0x2000]),
    (typed ⟨5, 0, 0, 0, 0, 0, 0, 0⟩ 1 0 .kilo, [0x51B7, 0x4003, 0x2000]),
    (State.reset, [0x4000, 0x4000, 0x2000]),
    (typed ⟨9, 8, 7, 6, 5, 4, 3, 2⟩ 10 2 .one, [0x4000, 0x4000, 0x2000]),
    (typed ⟨9, 9, 9, 9, 9, 4, 2, 1⟩ 8 0 .one, [0x7FF5, 0x5FFF, 0x2000])] : List (State × List Word)),
    wordsAfter (.sineS false) x.1 = some x.2 := by decide +kernel

/-- X96, X85: the echo keeps the case; DIV counts the lost digits. -/
theorem test_sineS_lower :
    (after (exec (.sineS true) (typed ⟨9, 8, 7, 6, 5, 4, 3, 2⟩ 10 2 .one))).map
        (fun t => (t.history.head?, t.wf, t.divExp)) = some (some (.echo 0x73), .sine, 9) := by decide +kernel

/-- X90, and X3 with T: `99999999MT`, `1.5T` (X14). -/
theorem test_triangleT :
    wordsAfter (.triangleT false) (typed ⟨9, 9, 9, 9, 9, 9, 9, 9⟩ 8 0 .mega) = some [0x7FFF, 0x5FFF, 0x2002] ∧
    wordsAfter (.triangleT false) (typed ⟨5, 1, 0, 0, 0, 0, 0, 0⟩ 2 2 .one) = some [0x4010, 0x4000, 0x2002] := by
  decide +kernel

/-- R118: slot 0 decides, not the whole number. -/
theorem test_debugZ :
    (after (exec (.debugZ false) (typed ⟨1, 0, 0, 0, 0, 0, 0, 0⟩ 1 0 .one))).map State.dbg = some true ∧
    (after (exec (.debugZ true) { typed ⟨0, 1, 0, 0, 0, 0, 0, 0⟩ 2 0 .one with dbg := true })).map State.dbg =
      some false := by decide +kernel

/-- X94, X95, X7: a control character does nothing; `D` and `X` are echoed and nothing else. -/
theorem test_otherByte : after (exec (.otherByte 0x0D) (typed thousand 4 2 .kilo)) = some (typed thousand 4 2 .kilo) ∧
    after (exec (.otherByte 0x44) (typed thousand 4 2 .kilo)) =
      some { typed thousand 4 2 .kilo with history := [.echo 0x44] } ∧
    after (exec (.otherByte 0x58) { typed thousand 4 2 .kilo with echo := false }) =
      some { typed thousand 4 2 .kilo with echo := false } := by decide +kernel

/-! ## The step -/

/-- The next step runs the word placed by `withFetchWord`, one row of each group. -/
theorem test_step_runs_the_placed_word :
    (after (step (State.reset.withFetchWord 16 0x2028))).map (fun t => wordsReceived .rising t.history) =
      some [0x2028] ∧
    (after (step (State.reset.withFetchWord 8 0x35))).map State.buf = some ⟨5, 0, 0, 0, 0, 0, 0, 0⟩ ∧
    (after (step (State.reset.withFetchWord 8 0x04))).map (fun t => t.history.length) = some 50 := by decide +kernel

/-- R149: reset in the middle of a frame restores the idle lines and emits nothing. -/
theorem test_reset_mid_frame : midFrame.history.length = 4 ∧ midFrame.fsync = false ∧
    after (step { midFrame with resetPlan := [0] }) = some State.reset := by decide +kernel

/-! ## Witnesses: the hypotheses of the statements can be met -/

/-- DecodeOfEncodeIsIdentity, at the two checked constructors and a reserved waveform code. -/
theorem test_witness_DecodeOfEncodeIsIdentity : wellFormed (.ctrlOther 0x3FFF) = true ∧
    wellFormed (.otherByte 0xFF) = true ∧ wellFormed (.setwf 7) = true ∧ wellFormed .digit0 = true := by decide

/-- WireWordClassFollowsAddressBits: each clause at the ends of its range. -/
theorem test_witness_WireWordClassFollowsAddressBits :
    addressOf 0x4000 = 1 ∧ addressOf 0x7FFF = 1 ∧ addressOf 0x8000 = 2 ∧ addressOf 0xBFFF = 2 ∧
    addressOf 0xC000 = 3 ∧ addressOf 0xFFFF = 3 ∧ addressOf 0x0000 = 0 ∧ addressOf 0x3FFF = 0 ∧
    (0x0000 : Word) ∉ ([0x2000, 0x2002, 0x2020, 0x2028, 0x2100] : List Word) ∧
    (0x3FFF : Word) ∉ ([0x2000, 0x2002, 0x2020, 0x2028, 0x2100] : List Word) := by decide

/-- The statements whose only hypothesis is an idle block: SetdbgWritesDebugOnly, ReservedOperationsChangeNothing,
EncRawRoundsAndSendsThreeWords, ChipResetSendsResetWordOnly, Tx16SendsTraceFrameAndSixteenBits,
WireWordInstructionsSendTheirWord, WireWordsAreSentUnchanged, DigitShiftsIntoTheBuffer,
DecimalPointRecordsItsPosition, UnitSuffixSetsTheMultiplierOnly, HelpFinalizesAndEmitsTheText,
EchoCommandReadsDigitSlotZero, RawCommandSetsSineAndEncodesRaw, OffCommandSendsResetWordOnly,
SineCommandSetsSineAndEncodesHz, TriangleCommandSetsTriangleAndEncodesHz, OtherByteOnlyEchoes,
EveryPrintableByteIsEchoedFirst. Idle after reset, with another waveform, with a number typed. -/
theorem test_witness_idle : State.reset.inProgress = none ∧ (withWf .rect).inProgress = none ∧
    (typed thousand 4 2 .kilo).inProgress = none := by decide

/-- SetwfWritesWaveformOnly: the reserved codes are 5 to 7. -/
theorem test_witness_SetwfWritesWaveformOnly : 5 ≤ (5 : BitVec 3).toNat ∧ 5 ≤ (7 : BitVec 3).toNat := by decide

/-- EncHzConvertsAndSendsThreeWords: just below the threshold, at it, and with another waveform. -/
theorem test_witness_EncHzConvertsAndSendsThreeWords :
    ((withWf .rect).inProgress = none ∧ (withWf .rect).wf = .rect ∧
      (1199999999 / 100 : Rat) < (Config.rectHalfLimit : Rat)) ∧
    ((withWf .rect).inProgress = none ∧
      ¬((withWf .rect).wf = .rect ∧ (12000000 : Rat) < (Config.rectHalfLimit : Rat))) ∧
    ((withWf .sine).inProgress = none ∧
      ¬((withWf .sine).wf = .rect ∧ (1 : Rat) < (Config.rectHalfLimit : Rat))) := by decide +kernel

/-- RoundingIsToNearestTiesAway: exact ties of both signs. -/
theorem test_witness_RoundingIsToNearestTiesAway :
    (⟨1, 2⟩ : Scaled).den ≠ 0 ∧ |((⟨1, 2⟩ : Scaled).round : Rat) - (⟨1, 2⟩ : Scaled).toRat| = 1 / 2 ∧
    |((⟨-5, 2⟩ : Scaled).round : Rat) - (⟨-5, 2⟩ : Scaled).toRat| = 1 / 2 := by
  refine ⟨by decide, ?_, ?_⟩ <;> norm_num [Scaled.round, Scaled.toRat]

/-- RegisterValueIsClampedNeverWraps: each clause at the end of its range. -/
theorem test_witness_RegisterValueIsClampedNeverWraps :
    0x8000000 ≤ (⟨0x8000000, 1⟩ : Scaled).round ∧ (⟨-1, 1⟩ : Scaled).round < 0 ∧
    (0 ≤ (⟨0, 1⟩ : Scaled).round ∧ (⟨0, 1⟩ : Scaled).round ≤ 0x7FFFFFF) ∧
    (0 ≤ (⟨0x7FFFFFF, 1⟩ : Scaled).round ∧ (⟨0x7FFFFFF, 1⟩ : Scaled).round ≤ 0x7FFFFFF) ∧
    (Config.regMax : Rat) + 1 / 2 ≤ (⟨0xFFFFFFF, 2⟩ : Scaled).toRat ∧
    ((Config.regMax : Rat) ≤ (⟨0x7FFFFFF, 1⟩ : Scaled).toRat ∧
      (⟨0x7FFFFFF, 1⟩ : Scaled).toRat < (Config.regMax : Rat) + 1 / 2) := by
  refine ⟨by decide, by decide, by decide, by decide, ?_, ?_, ?_⟩ <;> norm_num [Scaled.toRat, Config.regMax]

/-- RegisterValueIsMonotone. -/
theorem test_witness_RegisterValueIsMonotone : (1 / 2 : Rat) ≤ 5 ∧ Waveform.sine ≠ .rect := by decide +kernel

/-- RectangleFrom6250000To12000000IsClamped: both ends of the range. -/
theorem test_witness_RectangleFrom6250000To12000000IsClamped :
    (withWf .rect).inProgress = none ∧ (withWf .rect).wf = .rect ∧
    ((6250000 : Rat) ≤ 6250000 ∧ (6250000 : Rat) < 12000000) ∧
    ((6250000 : Rat) ≤ 1199999999 / 100 ∧ (1199999999 / 100 : Rat) < 12000000) := by decide +kernel

/-- EncodeInResetMidscaleSendsResetWordLast. -/
theorem test_witness_EncodeInResetMidscaleSendsResetWordLast :
    State.reset.inProgress = none ∧ State.reset.wf = .resetMidscale := by decide

/-- FrequencyWordsRecombine: the largest register value. -/
theorem test_witness_FrequencyWordsRecombine : (0x7FFFFFF : RegVal).toNat ≤ Config.regMax := by decide

/-- SentFrequencyDecodesToRoundedValue: both clauses at their ends (X28, X26). -/
theorem test_witness_SentFrequencyDecodesToRoundedValue :
    (withWf .sine).inProgress = none ∧ (withWf .sine).wf ≠ .rect ∧ (0 : Rat) ≤ 1249999995 / 100 ∧
    nearest (1249999995 / 100 * Config.kconv) ≤ 0x7FFFFFF ∧ 0x8000000 ≤ nearest (12500000 * Config.kconv) := by
  decide +kernel

/-- EncoderReachesControlAndFreq0Only: each of the three instructions. -/
theorem test_witness_EncoderReachesControlAndFreq0Only : State.reset.inProgress = none ∧
    ∀ i ∈ ([.encHz 5, .encRaw 5, .chipReset] : List Instr), i = .encHz 5 ∨ i = .encRaw 5 ∨ i = .chipReset := by decide +kernel

/-- ReceiverOnEitherEdgeCollectsTheWord: a receiver on idle lines. -/
theorem test_witness_ReceiverOnEitherEdgeCollectsTheWord :
    Receiver.reset.clock = true ∧ Receiver.reset.fsync = true := by decide

/-- MicroStepsGiveTheWholeOperation: idle states with the invariant, one with a history. -/
theorem test_witness_MicroStepsGiveTheWholeOperation :
    State.reset.inProgress = none ∧ State.reset.Inv ∧ (midFrame.ticks midFrame.remaining).Inv ∧
    (midFrame.ticks midFrame.remaining).inProgress = none :=
  ⟨rfl, State.inv_of_idle rfl (by decide +kernel), State.inv_of_idle (by decide +kernel) (by decide +kernel),
    by decide +kernel⟩

/-- StepByStepRunAgreesWithWholeOperation: an ENC operation waiting, the bound met exactly. -/
theorem test_witness_StepByStepRunAgreesWithWholeOperation :
    let s : State := { State.reset with inputs := [.command ⟨2, 0, 1000⟩] }
    s.Inv ∧ s.inProgress = none ∧ s.inputs = [.command ⟨2, 0, 1000⟩] ∧ s.resetPlan = [] ∧
    1 + (accept (decode (.command ⟨2, 0, 1000⟩)) { s with inputs := [] }).remaining ≤ 151 :=
  ⟨State.inv_of_idle rfl (by decide +kernel), by decide +kernel⟩

/-- OperationTakesItsRemainingTransitions, CommandPresentedWhileBusyWaits, StepKeepsTheInvariant: a busy state. -/
theorem test_witness_busy : midFrame.busy = true ∧ midFrame.remaining = 46 ∧ midFrame.Inv ∧
    (after (step midFrame)).isSome :=
  ⟨by decide +kernel, by decide +kernel,
    State.inv_of_busy (j := .single 0x8001) (by decide +kernel) (by decide +kernel) (by decide +kernel),
    by decide +kernel⟩

/-- ReachableIdleStatesHaveIdleLevels: a run that ends idle after sending a word. -/
theorem test_witness_ReachableIdleStatesHaveIdleLevels :
    State.reset.Inv ∧ core.run 2 State.reset = .next State.reset ∧ State.reset.busy = false :=
  ⟨State.inv_of_idle rfl (by decide +kernel), rfl, rfl⟩

/-- HistoryOnlyGrows: a step with no reset due now; one with a reset due later. -/
theorem test_witness_HistoryOnlyGrows :
    State.reset.resetPlan.head? ≠ some 0 ∧ (after (step State.reset)).isSome ∧
    ({ midFrame with resetPlan := [1] } : State).resetPlan.head? ≠ some 0 ∧
    (after (step { midFrame with resetPlan := [1] })).isSome := by decide +kernel

/-- OnlySetwfChangesTheWaveform: WF does change, DBG does change. -/
theorem test_witness_OnlySetwfChangesTheWaveform :
    (after (exec (.setwf 1) State.reset)).map State.wf = some .sine ∧ State.reset.wf ≠ .sine ∧
    (after (exec (.setdbg true) State.reset)).map State.dbg = some true ∧ State.reset.dbg ≠ true := by decide +kernel

/-- BlockOperationsLeaveTheHostAlone: an instruction that is no byte. -/
theorem test_witness_BlockOperationsLeaveTheHostAlone : (∀ b, encode .chipReset ≠ .byte b) ∧
    (after (exec .chipReset State.reset)).isSome := by
  refine ⟨fun b => ?_, by decide +kernel⟩
  exact nofun

/-- FinalizeComputesTheValue: a marker with digits, at both ends of the exponent; no marker; no digit. -/
theorem test_witness_FinalizeComputesTheValue : ∀ x ∈ ([
    (1, 1), (1, 2), (255, 1), (255, 256), (0, 1), (4, 0)] : List (Nat × Nat)),
    (typed thousand x.1 x.2 .one).Inv ∧
    ((typed thousand x.1 x.2 .one).dmp ≠ 0 ∧ (typed thousand x.1 x.2 .one).ndig ≠ 0 ∨
      (typed thousand x.1 x.2 .one).dmp = 0 ∨ (typed thousand x.1 x.2 .one).ndig = 0) := by
  have h : ∀ x ∈ ([(1, 1), (1, 2), (255, 1), (255, 256), (0, 1), (4, 0)] : List (Nat × Nat)),
      (typed thousand x.1 x.2 .one).Rested ∧ (typed thousand x.1 x.2 .one).LevelsOk ∧
        (typed thousand x.1 x.2 .one).RegisterOk ∧ (typed thousand x.1 x.2 .one).CountersOk := by decide +kernel
  exact fun x hx => ⟨State.inv_of_idle rfl (h x hx), by revert x; decide +kernel⟩

/-- DebugCommandReadsDigitSlotZero: a 1 in slot 0. -/
theorem test_witness_DebugCommandReadsDigitSlotZero :
    (typed ⟨1, 0, 0, 0, 0, 0, 0, 0⟩ 1 0 .one).inProgress = none ∧
    (typed ⟨1, 0, 0, 0, 0, 0, 0, 0⟩ 1 0 .one).buf.d0 = 1 := by decide

/-- OtherByteOnlyEchoes: each clause of its second part, at the ends. -/
theorem test_witness_OtherByteOnlyEchoes :
    (0x1F : Byte) < 0x20 ∧ (0x80 : Byte) ≤ 0x80 ∧ (0x80 : Byte) ≤ 0xFF ∧
    ([0x41, 0x44, 0x46, 0x59, 0x61, 0x79] : List Byte).all (fun b => decide (
      0x41 ≤ b &&& 0xDF ∧ b &&& 0xDF ≤ 0x5A ∧
        b &&& 0xDF ∉ ([0x45, 0x4B, 0x4D, 0x4E, 0x4F, 0x53, 0x54, 0x5A] : List Byte))) = true := by decide

/-- HostNeverSelectsRectangle: the reset state. -/
theorem test_witness_HostNeverSelectsRectangle :
    State.reset.inProgress = none ∧ State.reset.wf ≠ .rect ∧ State.reset.wf ≠ .rectHalf := by decide

/-- FinalizedValueIsInRange: the largest number with the largest exponent. -/
theorem test_witness_FinalizedValueIsInRange :
    ({ typed ⟨9, 9, 9, 9, 9, 9, 9, 9⟩ 255 1 .mega with divExp := 255 } : State).Inv :=
  State.inv_of_idle rfl (by decide +kernel)

/-- StepRunsTheDecodedInstruction: each of its four clauses. -/
theorem test_witness_StepRunsTheDecodedInstruction :
    (({ State.reset with inputs := [.wire 0x2000] } : State).resetPlan = [] ∧
      ({ State.reset with inputs := [.wire 0x2000] } : State).inputs = [.wire 0x2000]) ∧
    (midFrame.resetPlan = [] ∧ midFrame.inputs = []) ∧
    (State.reset.resetPlan = [] ∧ State.reset.inputs = [] ∧ State.reset.inProgress = none) ∧
    decodeTableWord 16 0x2000 = some .ctrlSine := by decide +kernel

/-- ResetInputActsAtOnceEvenMidFrame: a reset due now, and one due while the block is busy. -/
theorem test_witness_ResetInputActsAtOnceEvenMidFrame :
    ({ midFrame with resetPlan := [0] } : State).resetPlan = 0 :: [] ∧
    ({ midFrame with resetPlan := [1] } : State).resetPlan = (0 + 1) :: [] ∧
    ({ midFrame with resetPlan := [1] } : State).busy = true := by decide +kernel

/-- ChipLatchesTheEncodedFrequency: the view after the reset word. -/
theorem test_witness_ChipLatchesTheEncodedFrequency :
    (chipView [resetWord]).b28 = some true ∧ (chipView [resetWord]).pairing = .aligned := by decide

/-- ControlWordsAreTheFiveLiterals: an idle block in each waveform type, on both sides of the threshold. -/
theorem test_witness_ControlWordsAreTheFiveLiterals :
    (∀ t : Waveform, (withWf t).inProgress = none ∧ (withWf t).wf = t) ∧
    (1199999999 / 100 : Rat) < 12000000 ∧ ¬(12000000 : Rat) < 12000000 :=
  ⟨fun _ => ⟨rfl, rfl⟩, by decide +kernel, by decide +kernel⟩

end Sys2Proof.Tests
end

section
/-! The encoder's rounding and clamping at the bounds (40_encoder.md R72, R73), and the reset command
(R79). -/

namespace Sys2Proof.Machine

/-! ## Rounding a value that is not negative -/

theorem le_nearest_iff {q : Rat} (h : 0 ≤ q) (n : Int) : n ≤ nearest q ↔ (n : Rat) ≤ q + 1 / 2 := by
  rw [nearest, if_pos h, Int.le_floor]

theorem nearest_eq_iff {q : Rat} (h : 0 ≤ q) (n : Int) :
    nearest q = n ↔ (n : Rat) ≤ q + 1 / 2 ∧ q + 1 / 2 < n + 1 := by
  rw [nearest, if_pos h, Int.floor_eq_iff]

/-! ## The three cases of the clamp -/

theorem clamp_of_lt {n lo : Int} (hi : Int) (h : n < lo) : clamp n lo hi = lo := if_pos h

theorem clamp_of_gt {n lo hi : Int} (hl : lo ≤ hi) (h : hi < n) : clamp n lo hi = hi := by
  rw [clamp, if_neg (by omega), if_pos h]

theorem clamp_of_mem {n lo hi : Int} (hl : lo ≤ n) (hh : n ≤ hi) : clamp n lo hi = n := by
  rw [clamp, if_neg (by omega), if_neg (by omega)]

/-! ## The register value in each case -/

theorem Scaled.regValue_of_round_gt {q : Scaled} (h : (Config.regMax : Int) < q.round) :
    q.regValue.toNat = Config.regMax := by
  exact_mod_cast q.toNat_regValue.trans (clamp_of_gt (by decide) h)

theorem Scaled.regValue_of_round_neg {q : Scaled} (h : q.round < 0) : q.regValue.toNat = 0 := by
  exact_mod_cast q.toNat_regValue.trans (clamp_of_lt _ h)

theorem Scaled.regValue_of_round_mem {q : Scaled} (h0 : 0 ≤ q.round) (h : q.round ≤ Config.regMax) :
    (q.regValue.toNat : Int) = q.round :=
  q.toNat_regValue.trans (clamp_of_mem h0 h)

/-- From half a unit above REG_MAX on, the rounded value lies above REG_MAX (R73). -/
theorem Scaled.regMax_lt_round {q : Scaled} (hden : q.den ≠ 0)
    (h : (Config.regMax : Rat) + 1 / 2 ≤ q.toRat) : (Config.regMax : Int) < q.round := by
  have hnonneg : 0 ≤ q.toRat := le_trans (by norm_num [Config.regMax]) h
  rw [Scaled.round_eq_nearest hden, ← Int.add_one_le_iff, le_nearest_iff hnonneg]
  push_cast
  linarith

/-- Less than half a unit above REG_MAX, rounding alone gives REG_MAX (R73). -/
theorem Scaled.round_eq_regMax {q : Scaled} (hden : q.den ≠ 0) (hlo : (Config.regMax : Rat) ≤ q.toRat)
    (hhi : q.toRat < (Config.regMax : Rat) + 1 / 2) : q.round = Config.regMax := by
  have hnonneg : 0 ≤ q.toRat := le_trans (Nat.cast_nonneg _) hlo
  rw [Scaled.round_eq_nearest hden, nearest_eq_iff hnonneg]
  push_cast
  constructor <;> linarith

/-- Settles O14: the register value in the three cases of the rounded value, and the rounding of a scaled
value on either side of the tie above REG_MAX. REG_MAX is 0x7FFFFFF, so `0x8000000 ≤ n` is `REG_MAX < n`. -/
theorem registerValueIsClampedNeverWraps : Obligations.RegisterValueIsClampedNeverWraps := by
  intro q hden
  exact ⟨q.toNat_regValue, Scaled.regValue_of_round_gt, Scaled.regValue_of_round_neg,
    Scaled.regValue_of_round_mem, fun h => Scaled.regValue_of_round_gt (Scaled.regMax_lt_round hden h),
    Scaled.round_eq_regMax hden⟩

/-! ## The reset command -/

/-- CHIP_RESET on an idle block sends the reset word and no other (R79). -/
theorem exec_chipReset_idle {s : State} (h : s.inProgress = none) :
    exec .chipReset s = .next (s.sent [resetWord]) := by
  rw [exec_eq_perform, perform_idle h]
  exact congrArg Host.Outcome.next (State.complete_start_single s resetWord)

@[simp] theorem State.sent_history (s : State) (ws : List Word) :
    (s.sent ws).history = s.history ++ transmissions s.dbg ws := rfl

@[simp] theorem State.sent_busy (s : State) (ws : List Word) : (s.sent ws).busy = false := rfl

/-- Settles O12: the next state is the one `sent` describes for the single word 0x2100, which differs from
the state before in the lines, the transmitter and the history only. -/
theorem chipResetSendsResetWordOnly : Obligations.ChipResetSendsResetWordOnly := by
  intro s hidle
  refine ⟨s.sent [resetWord], exec_chipReset_idle hidle, ?_, s.sent_busy _, rfl⟩
  rw [State.sent_history, transmissions_cons, transmissions_nil, List.append_nil, resetWord]

end Sys2Proof.Machine
end

section
/-! The transmission of one word with its events written out (41_bitlink.md R86). -/

namespace Sys2Proof.Machine

/-- The bits go out from the highest index down to 0, each as one level of DATA and one pulse of CLOCK
(R34, R86). -/
theorem bitsEvents_eq_flatMap (w : Word) (n : Nat) :
    bitsEvents w n = (List.range n).reverse.flatMap fun i => bitEvents (w.getLsbD i) := by
  induction n with
  | zero => rfl
  | succ n ih =>
    rw [bitsEvents, ih, List.range_succ, List.reverse_append, List.reverse_singleton,
      List.singleton_append, List.flatMap_cons]

/-- TX16 on an idle block sends its word and no other (R86). -/
theorem exec_tx16_idle {s : State} (h : s.inProgress = none) (w : Word) :
    exec (.tx16 w) s = .next (s.sent [w]) := by
  rw [exec_eq_perform, perform_idle h]
  exact congrArg Host.Outcome.next (State.complete_start_single s w)

/-- Settles O21: the next state is the one `sent` describes for the single word, whose transmission is the
trace and the frame, the frame's bits taken from index 15 down to 0. -/
theorem tx16SendsTraceFrameAndSixteenBits : Obligations.Tx16SendsTraceFrameAndSixteenBits := by
  intro s w hidle
  have horder : [15, 14, 13, 12, 11, 10, 9, 8, 7, 6, 5, 4, 3, 2, 1, 0] = (List.range 16).reverse := by decide
  refine ⟨s.sent [w], exec_tx16_idle hidle w, ?_, rfl, rfl, rfl, s.sent_busy _, rfl⟩
  rw [State.sent_history, transmissions_cons, transmissions_nil, List.append_nil, transmission, frame,
    bitsEvents_eq_flatMap, horder]
  simp only [traceEvents, bitEvents, List.append_assoc, List.cons_append, List.nil_append]

end Sys2Proof.Machine
end

section
/-! Which bytes are in no named class of the host's stream, and so fall to its last row (30_encoding.md
R55, R57; 42_host_frontend.md R119). -/

namespace Sys2Proof

/-- A byte is its letter with bit 5 as the case (R57). -/
theorem letterByte_caseMask (b : Byte) : letterByte (b &&& 0xDF) (b.getLsbD 5) = b := by
  revert b
  decide

/-- The digits, the point and the question mark, which match by all eight bits (R57). -/
def namedGlyphs : List Byte := [0x30, 0x31, 0x32, 0x33, 0x34, 0x35, 0x36, 0x37, 0x38, 0x39, 0x2E, 0x3F]

theorem isNamedByte_of_glyph : ∀ b ∈ namedGlyphs, isNamedByte b = true := by decide

theorem isNamedByte_of_letter {b : Byte} (h : b &&& 0xDF ∈ commandLetters) : isNamedByte b = true := by
  rw [isNamedByte, List.contains_iff_mem.2 h, Bool.or_true]

/-- A byte in no named class falls through to the last row (R55, R119). -/
theorem decodeByte_of_not_named {b : Byte} (h : isNamedByte b = false) : decodeByte b = .otherByte b := by
  have hglyph : b ∉ namedGlyphs := fun hmem => by simp [isNamedByte_of_glyph b hmem] at h
  have hletter : b &&& 0xDF ∉ commandLetters := fun hmem => by simp [isNamedByte_of_letter hmem] at h
  simp only [namedGlyphs, List.mem_cons, not_or] at hglyph
  simp only [commandLetters, List.mem_cons, not_or] at hletter
  simp only [decodeByte, hglyph, hletter, if_false]

/-- Where the named bytes lie: the digits, the point and the question mark below the letters, and the
command letters in both cases (R57). -/
theorem range_of_named {b : Byte} (h : isNamedByte b = true) :
    0x2E ≤ b ∧ b ≤ 0x3F ∨ 0x45 ≤ b ∧ b ≤ 0x7A ∧ b &&& 0xDF ∈ commandLetters := by
  have hrange : ∀ u ∈ commandLetters, ∀ lower, 0x45 ≤ letterByte u lower ∧ letterByte u lower ≤ 0x7A := by
    decide
  simp only [isNamedByte, Bool.or_eq_true, Bool.and_eq_true, decide_eq_true_eq, beq_iff_eq,
    List.contains_iff_mem] at h
  rcases h with ((hdigit | hpoint) | hhelp) | hletter
  · left; bv_omega
  · left; bv_omega
  · left; bv_omega
  · obtain ⟨hlo, hhi⟩ := hrange _ hletter (b.getLsbD 5)
    rw [letterByte_caseMask] at hlo hhi
    exact .inr ⟨hlo, hhi, hletter⟩

theorem and_caseMask_le (b : Byte) : b &&& 0xDF ≤ b := Nat.and_le_left

/-- The bytes R119 lists are in no named class: controls and the space lie below them, 0x80 and up
above them, and the other letters have none of the eight letters under the case mask. -/
theorem isNamedByte_eq_false {b : Byte} (h : b < 0x20 ∨ b = 0x20 ∨ 0x80 ≤ b ∨
    (0x41 ≤ b &&& 0xDF ∧ b &&& 0xDF ≤ 0x5A ∧ b &&& 0xDF ∉ commandLetters)) : isNamedByte b = false := by
  by_contra hnamed
  rcases range_of_named (eq_true_of_ne_false hnamed) with ⟨hlo, hhi⟩ | ⟨hlo, hhi, hletter⟩
  · have hmask : b &&& 0xDF ≤ 0x3F := BitVec.le_trans (and_caseMask_le b) hhi
    rcases h with h | h | h | ⟨h, -, -⟩ <;> bv_omega
  · rcases h with h | h | h | ⟨-, -, h⟩
    · bv_omega
    · bv_omega
    · bv_omega
    · exact h hletter

end Sys2Proof
end

section
/-! The documented host's bytes that issue no ENC operation (42_host_frontend.md R102, R103, R115, R118,
R119). -/

namespace Sys2Proof.Machine

/-! ## Instructions that are complete once accepted -/

/-- Where the acceptance starts no transmission, it is the whole instruction (R83, R100). -/
theorem exec_eq_accept {i : Instr} {s t : State} (h : s.inProgress = none) (hacc : accept i s = t)
    (ht : t.inProgress = none) : exec i s = .next t := by
  rw [exec_eq_perform, perform_idle h, hacc, State.complete_idle ht]

/-! ## Echo, point and unit suffix -/

theorem State.echoByte_printable {c : Byte} (h : 0x20 ≤ c) (s : State) :
    s.echoByte c = { s with history := s.history ++ (if s.echo then [.echo c] else []) } := by
  rw [State.echoByte_eq, echoEvents_printable s.echo h]

theorem echoEvents_eq_ite (echo : Bool) (c : Byte) :
    echoEvents echo c = if echo ∧ 0x20 ≤ c then [.echo c] else [] := by
  simp only [echoEvents, Bool.and_eq_true, decide_eq_true_eq]

theorem accept_point (s : State) :
    accept .point s =
      { s with dmp := s.ndig + 1, history := s.history ++ (if s.echo then [.echo 0x2E] else []) } :=
  congrArg State.onDecimalPoint (s.echoByte_printable (by decide))

theorem State.echo_onUnitSuffix {c : Byte} (h : 0x20 ≤ c) (m : Scale) (s : State) :
    (s.echoByte c).onUnitSuffix m =
      { s with mult := m, history := s.history ++ (if s.echo then [.echo c] else []) } :=
  congrArg (State.onUnitSuffix m) (s.echoByte_printable h)

/-- Settles O39: the acceptance of the point is its echo and the mark, and it starts no transmission. -/
theorem decimalPointRecordsItsPosition : Obligations.DecimalPointRecordsItsPosition := by
  intro s hidle
  exact exec_eq_accept hidle (accept_point s) hidle

/-- Settles O40: the acceptance of a suffix is its echo and the write to MULT, and it starts no
transmission. -/
theorem unitSuffixSetsTheMultiplierOnly : Obligations.UnitSuffixSetsTheMultiplierOnly := by
  intro s lower hidle
  have hkilo : 0x20 ≤ letterByte 0x4B lower := letterByte_printable (by decide) lower
  have hmega : 0x20 ≤ letterByte 0x4D lower := letterByte_printable (by decide) lower
  exact ⟨exec_eq_accept hidle (s.echo_onUnitSuffix hkilo .kilo) hidle,
    exec_eq_accept hidle (s.echo_onUnitSuffix hmega .mega) hidle, rfl, rfl⟩

/-! ## Z and O -/

theorem State.slotTruth_eq_decide (s : State) : s.slotTruth = decide (s.buf.d0 ≠ 0) := by
  rw [State.slotTruth, Bool.eq_iff_iff, bne_iff_ne, decide_eq_true_eq]

@[simp] theorem State.finalized_buf (s : State) (c : Byte) : (s.finalized c).buf = s.buf := rfl

@[simp] theorem State.finalized_dbg (s : State) (c : Byte) : (s.finalized c).dbg = s.dbg := rfl

@[simp] theorem State.finalized_history (s : State) (c : Byte) :
    (s.finalized c).history = s.history ++ (if s.echo then [.echo c] else []) := rfl

theorem accept_debugZ (lower : Bool) (s : State) :
    accept (.debugZ lower) s =
      { s.finalized (letterByte 0x5A lower) with dbg := decide (s.buf.d0 ≠ 0) } := by
  have hprint : 0x20 ≤ letterByte 0x5A lower := letterByte_printable (by decide) lower
  change ((s.echoByte _).finalize).setDebug ((s.echoByte _).finalize).slotTruth = _
  rw [State.echo_finalize _ s hprint, State.slotTruth_eq_decide, State.finalized_buf, State.setDebug]

theorem exec_debugZ_idle {s : State} (h : s.inProgress = none) (lower : Bool) :
    exec (.debugZ lower) s =
      .next { s.finalized (letterByte 0x5A lower) with dbg := decide (s.buf.d0 ≠ 0) } :=
  exec_eq_accept h (accept_debugZ lower s) h

/-- O on an idle machine finalizes and sends the reset word (R115). -/
theorem exec_offO_idle {s : State} (h : s.inProgress = none) (lower : Bool) :
    exec (.offO lower) s = .next ((s.finalized (letterByte 0x4F lower)).sent [resetWord]) := by
  have hprint : 0x20 ≤ letterByte 0x4F lower := letterByte_printable (by decide) lower
  rw [exec_eq_perform, perform_idle h]
  change Host.Outcome.next ((s.echoByte _).finalize.start (.single resetWord)).complete = _
  rw [State.echo_finalize _ s hprint, State.complete_start_single]

/-- Sending a word echoes nothing (R86). -/
theorem ne_echo_of_mem_transmission {dbg : Bool} {w : Word} {e : Event} (h : e ∈ transmission dbg w)
    (c : Byte) : e ≠ .echo c := by
  rintro rfl
  cases dbg <;> simp [transmission, traceEvents, frame, bitsEvents_eq_flatMap, bitEvents] at h

/-- With its echo taken out, what follows an echo is a transmission as it was (R108, R86). -/
theorem filter_echo_append_transmission (echo dbg : Bool) (c : Byte) (w : Word) :
    ((if echo then [Event.echo c] else []) ++ transmission dbg w).filter (· ≠ .echo c) =
      transmission dbg w := by
  have hecho : (if echo then [Event.echo c] else []).filter (· ≠ .echo c) = [] := by cases echo <;> simp
  have hwords : (transmission dbg w).filter (· ≠ .echo c) = transmission dbg w :=
    List.filter_eq_self.2 fun _ he => decide_eq_true (ne_echo_of_mem_transmission he c)
  rw [List.filter_append, hecho, hwords, List.nil_append]

/-- Settles O48: Z leaves the finalized state with DBG read from slot 0; with a 1 there DBG is 1, so the
reset word of the O that follows goes out behind its trace. -/
theorem debugCommandReadsDigitSlotZero : Obligations.DebugCommandReadsDigitSlotZero := by
  intro s lower hidle
  refine ⟨exec_debugZ_idle hidle lower, fun hslot => ?_⟩
  have hdbg : decide (s.buf.d0 ≠ 0) = true := by rw [hslot]; decide
  refine ⟨_, _, (if s.echo then [.echo (letterByte 0x4F lower)] else []) ++ transmission true resetWord,
    exec_debugZ_idle hidle lower, exec_offO_idle (by exact hidle) lower, ?_,
    filter_echo_append_transmission s.echo true _ resetWord⟩
  rw [State.sent_history, State.finalized_history, State.finalized_dbg, hdbg, transmissions_cons,
    transmissions_nil, List.append_nil, List.append_assoc]
  rfl

/-! ## Any other byte -/

/-- Settles O49: the acceptance is the echo alone, and the listed bytes are in no named class. -/
theorem otherByteOnlyEchoes : Obligations.OtherByteOnlyEchoes := by
  refine ⟨fun s b hidle => ?_, fun b hb => decodeByte_of_not_named (isNamedByte_eq_false hb)⟩
  refine exec_eq_accept hidle ?_ hidle
  rw [← echoEvents_eq_ite]
  exact State.echoByte_eq b s

end Sys2Proof.Machine
end

section
/-! The decoder and the encoder are inverse to each other, and the decoder follows the opcode table
(30_encoding.md R45 to R49, R54 to R57). -/

namespace Sys2Proof

/-! ## Wire words -/

/-- The five control words recognised by all sixteen bits (R49). -/
def exactControlWords : List Word := [0x2000, 0x2002, 0x2020, 0x2028, 0x2100]

theorem addressOf_exactControlWord {w : Word} (h : w ∈ exactControlWords) : addressOf w = 0 := by
  have hall : exactControlWords.all (fun c => addressOf c = 0) = true := by decide
  exact of_decide_eq_true (List.all_eq_true.1 hall w h)

theorem exactControlPayloads_eq : exactControlPayloads = exactControlWords.map payloadOf := by decide

/-- Every word but the five goes by its address bits (R56). -/
theorem decodeWire_of_not_exact {w : Word} (h : w ∉ exactControlWords) :
    decodeWire w = if addressOf w = 1 then .freq0Data (payloadOf w)
      else if addressOf w = 2 then .freq1Data (payloadOf w)
      else if addressOf w = 3 then .phaseData (payloadOf w)
      else .ctrlOther (payloadOf w) := by
  simp only [exactControlWords, List.mem_cons, not_or] at h
  simp only [decodeWire, h, if_false]

theorem not_exact_of_address {w : Word} {a : BitVec 2} (h : addressOf w = a) (ha : a ≠ 0) :
    w ∉ exactControlWords :=
  fun hmem => ha (h.symm.trans (addressOf_exactControlWord hmem))

theorem decodeWire_address1 {w : Word} (h : addressOf w = 1) : decodeWire w = .freq0Data (payloadOf w) := by
  rw [decodeWire_of_not_exact (not_exact_of_address h (by decide)), if_pos h]

theorem decodeWire_address2 {w : Word} (h : addressOf w = 2) : decodeWire w = .freq1Data (payloadOf w) := by
  rw [decodeWire_of_not_exact (not_exact_of_address h (by decide)), h]
  rfl

theorem decodeWire_address3 {w : Word} (h : addressOf w = 3) : decodeWire w = .phaseData (payloadOf w) := by
  rw [decodeWire_of_not_exact (not_exact_of_address h (by decide)), h]
  rfl

theorem decodeWire_address0 {w : Word} (h : addressOf w = 0) (hne : w ∉ exactControlWords) :
    decodeWire w = .ctrlOther (payloadOf w) := by
  rw [decodeWire_of_not_exact hne, h]
  rfl

/-- Settles O5: the words with address bits other than 00 are none of the five, and each of the five comes
before the address bits are looked at. -/
theorem wireWordClassFollowsAddressBits : Obligations.WireWordClassFollowsAddressBits := by
  intro w
  refine ⟨decodeWire_address1, decodeWire_address2, decodeWire_address3, decodeWire_address0, ?_⟩
  refine ⟨?_, ?_, ?_, ?_, ?_⟩ <;> (rintro rfl; decide)

theorem address_cases (w : Word) : addressOf w = 0 ∨ addressOf w = 1 ∨ addressOf w = 2 ∨ addressOf w = 3 := by
  generalize addressOf w = a
  revert a
  decide

/-- What the decoder makes of a word: one of the five, or a class with the payload (R56). -/
theorem decodeWire_cases (w : Word) :
    w ∈ exactControlWords ∨ decodeWire w = .freq0Data (payloadOf w) ∧ addressOf w = 1 ∨
      decodeWire w = .freq1Data (payloadOf w) ∧ addressOf w = 2 ∨
      decodeWire w = .phaseData (payloadOf w) ∧ addressOf w = 3 ∨
      decodeWire w = .ctrlOther (payloadOf w) ∧ addressOf w = 0 ∧ w ∉ exactControlWords := by
  by_cases hmem : w ∈ exactControlWords
  · exact .inl hmem
  · rcases address_cases w with h | h | h | h
    · exact .inr (.inr (.inr (.inr ⟨decodeWire_address0 h hmem, h, hmem⟩)))
    · exact .inr (.inl ⟨decodeWire_address1 h, h⟩)
    · exact .inr (.inr (.inl ⟨decodeWire_address2 h, h⟩))
    · exact .inr (.inr (.inr (.inl ⟨decodeWire_address3 h, h⟩)))

/-- Each of the five has a row of its own (R49). -/
theorem decodeWire_exact {w : Word} (h : w ∈ exactControlWords) :
    encode (decodeWire w) = .wire w ∧ wellFormed (decodeWire w) = true := by
  have hall : exactControlWords.all
      (fun c => encode (decodeWire c) = .wire c ∧ wellFormed (decodeWire c) = true) = true := by decide
  exact of_decide_eq_true (List.all_eq_true.1 hall w h)

theorem wireWord_payloadOf {w : Word} {a : BitVec 2} (h : addressOf w = a) : wireWord a (payloadOf w) = w :=
  h ▸ wireWord_fields w

/-- A payload under address 00 is one of the five exactly if its word is one of the five (R49). -/
theorem payloadOf_not_exact {w : Word} (h : addressOf w = 0) (hne : w ∉ exactControlWords) :
    payloadOf w ∉ exactControlPayloads := by
  rw [exactControlPayloads_eq, List.mem_map]
  rintro ⟨c, hc, hpay⟩
  have hword : c = w := by
    rw [← wireWord_payloadOf (addressOf_exactControlWord hc), hpay, wireWord_payloadOf h]
  exact hne (hword ▸ hc)

theorem encode_decodeWire (w : Word) : encode (decodeWire w) = .wire w := by
  rcases decodeWire_cases w with hmem | ⟨hd, h⟩ | ⟨hd, h⟩ | ⟨hd, h⟩ | ⟨hd, h, -⟩
  · exact (decodeWire_exact hmem).1
  all_goals rw [hd, encode, wireWord_payloadOf h]

theorem wellFormed_decodeWire (w : Word) : wellFormed (decodeWire w) = true := by
  rcases decodeWire_cases w with hmem | ⟨hd, -⟩ | ⟨hd, -⟩ | ⟨hd, -⟩ | ⟨hd, h, hne⟩
  · exact (decodeWire_exact hmem).2
  · rw [hd]; rfl
  · rw [hd]; rfl
  · rw [hd]; rfl
  · simpa [hd, wellFormed] using payloadOf_not_exact h hne

/-- The word of a payload under address 00 that is none of the five payloads is none of the five. -/
theorem wireWord_not_exact {p : Payload} (h : p ∉ exactControlPayloads) :
    wireWord 0 p ∉ exactControlWords := by
  intro hmem
  rw [exactControlPayloads_eq] at h
  exact h (payloadOf_wireWord 0 p ▸ List.mem_map_of_mem hmem)

/-! ## Bytes -/

/-- A byte is the encoding of what it decodes to: the 256 bytes one by one (R57). -/
theorem encode_decodeByte (b : Byte) : encode (decodeByte b) = .byte b := by
  revert b
  decide

theorem wellFormed_decodeByte (b : Byte) : wellFormed (decodeByte b) = true := by
  revert b
  decide

/-! ## The statements -/

/-- A waveform code comes back from its place in the operand (R54). -/
theorem extractLsb'_setWidth_code (code : BitVec 3) : (code.setWidth 16).extractLsb' 0 3 = code := by
  rw [BitVec.extractLsb'_setWidth_of_le (by decide), BitVec.extractLsb'_eq_self]

/-- Settles O1, by the rows of the table: a command is read from its `op`, a wire word from its fields, a
letter from its byte in its case. -/
theorem decodeOfEncodeIsIdentity : Obligations.DecodeOfEncodeIsIdentity := by
  intro i hwf
  cases i with
  | setwf code => exact congrArg Instr.setwf (extractLsb'_setWidth_code code)
  | setdbg b => cases b <;> decide
  | ctrlOther p =>
    have hp : p ∉ exactControlPayloads := by simpa [wellFormed] using hwf
    exact (decodeWire_address0 (addressOf_wireWord 0 p) (wireWord_not_exact hp)).trans (by simp)
  | freq0Data d => exact (decodeWire_address1 (addressOf_wireWord 1 d)).trans (by simp)
  | freq1Data p => exact (decodeWire_address2 (addressOf_wireWord 2 p)).trans (by simp)
  | phaseData p => exact (decodeWire_address3 (addressOf_wireWord 3 p)).trans (by simp)
  | otherByte b => exact decodeByte_of_not_named (by simpa [wellFormed] using hwf)
  | echoE lower | kiloK lower | megaM lower | rawN lower | offO lower | sineS lower | triangleT lower
  | debugZ lower => cases lower <;> rfl
  | _ => rfl

theorem wellFormed_decodeCommand (c : Command) : wellFormed (decodeCommand c) = true := by
  unfold decodeCommand
  split_ifs <;> rfl

/-- Settles O2, port by port. -/
theorem decodedInstructionsAreWellFormed : Obligations.DecodedInstructionsAreWellFormed := by
  intro inp
  cases inp with
  | command c => exact wellFormed_decodeCommand c
  | wire w => exact wellFormed_decodeWire w
  | byte b => exact wellFormed_decodeByte b

/-- Settles O3: a wire word is put together again from its fields, a letter from its case. -/
theorem wordsAndBytesHaveOneMeaning : Obligations.WordsAndBytesHaveOneMeaning :=
  ⟨encode_decodeWire, encode_decodeByte⟩

open Laws.TableRow in
/-- Every well-formed instruction falls under its own row of the opcode table (R55). -/
theorem tableRow_encode (i : Instr) : Statement i := by
  cases i
  exacts [setwf _, setdbg _, encHz _, encRaw _, chipReset, tx16 _, reservedOp6, reservedOp7, ctrlSine,
    ctrlTriangle, ctrlRectHalf, ctrlRect, ctrlReset, freq0Data _, freq1Data _, phaseData _, ctrlOther _,
    digit0, digit1, digit2, digit3, digit4, digit5, digit6, digit7, digit8, digit9, point, help, echoE _,
    kiloK _, megaM _, rawN _, offO _, sineS _, triangleT _, debugZ _, otherByte _]

/-- Settles O4, port by port: the rows of a port are tried in the order the decoder tries them. -/
theorem firstMatchingTableRowDecides : Obligations.FirstMatchingTableRowDecides := by
  intro inp
  cases inp with
  | command c =>
    rw [tableRow_command, decode, decodeCommand]
    split_ifs <;> rfl
  | wire w =>
    rw [tableRow_wire, decode, decodeWire]
    split_ifs <;> rfl
  | byte b =>
    have hrow := tableRow_encode (decodeByte b) (wellFormed_decodeByte b)
    rwa [encode_decodeByte] at hrow

/-- Settles O6, by running the decoder on the sample words. -/
theorem sampleWordsDecodeToTheirRows : Obligations.SampleWordsDecodeToTheirRows := by
  unfold Obligations.SampleWordsDecodeToTheirRows
  decide

end Sys2Proof
end

section
/-! What a step can do, said once, and the invariant along instructions, steps and runs (41_bitlink.md R93,
R96; 10_state.md R17, R19, R23 to R25; 70_reset_and_hazards.md R145 to R149). -/

namespace Sys2Proof.Machine

/-! ## The transitions remaining (R91, R136) -/

theorem State.remaining_eq_zero_iff {s : State} (h : s.SequencerOk) : s.remaining = 0 ↔ s.busy = false := by
  refine ⟨fun hzero => ?_, fun hidle => State.remaining_idle ((State.busy_iff s).1 hidle)⟩
  by_contra hbusy
  have hstep := (State.tick_position h (eq_true_of_ne_false hbusy)).2
  omega

/-- `n` transitions take `n` from the count of those remaining (R91). -/
theorem State.remaining_ticks {s : State} (h : s.Inv) {n : Nat} (hn : n ≤ s.remaining) :
    (s.ticks n).remaining + n = s.remaining := by
  induction n generalizing s with
  | zero => rfl
  | succ n ih =>
    have hbusy : s.busy = true := by
      by_contra hidle
      have hzero := (State.remaining_eq_zero_iff h.1).2 (eq_false_of_ne_true hidle)
      omega
    have hstep := (State.tick_position h.1 hbusy).2
    have hrest : (s.tick.ticks n).remaining + n = s.tick.remaining := ih (State.inv_tick h) (by omega)
    change (s.tick.ticks n).remaining + (n + 1) = s.remaining
    omega

/-- An operation in progress ends with its last remaining transition (R83, R91). -/
theorem State.busy_waitIdle {s : State} (h : s.Inv) : s.waitIdle.busy = false := by
  have hrest : s.waitIdle.remaining + s.remaining = s.remaining := State.remaining_ticks h le_rfl
  exact (State.remaining_eq_zero_iff (State.inv_ticks h _).1).1 (Nat.add_eq_right.1 hrest)

theorem Job.words_range (j : Job) : 1 ≤ j.words ∧ j.words ≤ 3 := by
  cases j <;> simp [Job.words]

/-- No operation has more than three words, and none more than fifty transitions a word (R87, R91). -/
theorem State.remaining_le {s : State} (h : s.SequencerOk) : s.remaining ≤ 150 := by
  cases hj : s.inProgress with
  | none => simp [State.remaining_idle hj]
  | some j =>
    have hwords := j.words_range
    simp only [State.SequencerOk, hj] at h
    obtain ⟨-, hbits, -, -, -⟩ := h
    simp only [State.remaining, hj]
    split <;> omega

/-- Settles O29: each transition takes one from the count of those remaining, which is 0 exactly when the
block is idle. -/
theorem operationTakesItsRemainingTransitions : Obligations.OperationTakesItsRemainingTransitions := by
  intro s h
  refine ⟨State.remaining_le h.1, State.remaining_eq_zero_iff h.1, fun n hn => ?_, State.busy_waitIdle h⟩
  have hrest := State.remaining_ticks h hn.le
  by_contra hidle
  have hzero := (State.remaining_eq_zero_iff (State.inv_ticks h n).1).2 (eq_false_of_ne_true hidle)
  omega

/-! ## The answer of an instruction -/

/-- Every instruction waits for an idle block, is accepted, and completes (R83, R130). -/
theorem exec_eq_next (i : Instr) (s : State) : exec i s = .next (accept i s.waitIdle).complete := by
  rw [exec_eq_perform, perform]

theorem eq_of_exec {i : Instr} {s t : State} (h : exec i s = .next t) :
    t = (accept i s.waitIdle).complete := by
  rw [exec_eq_next] at h
  exact (Host.Outcome.next.inj h).symm

/-- Settles O30: waiting a second time takes no transition, the block being idle after the first. -/
theorem commandPresentedWhileBusyWaits : Obligations.CommandPresentedWhileBusyWaits := by
  intro i s h
  have hidle := State.busy_waitIdle h
  have htwice : s.waitIdle.waitIdle = s.waitIdle := State.waitIdle_idle ((State.busy_iff _).1 hidle)
  refine ⟨hidle, (State.ticks_ran _ s).history, ?_⟩
  change exec i s = exec i s.waitIdle
  rw [exec_eq_next, exec_eq_next, htwice]

/-! ## The cases of a step -/

/-- A step is the reset, one transition while a reset is due, one transition with no work waiting, or the
next instruction (R83, R91, R145; log entries 2 and 3). -/
inductive StepCase (s t : State) : Prop where
  | reset (rest : List Nat) (plan : s.resetPlan = 0 :: rest)
      (result : t = State.applyReset { s with resetPlan := rest })
  | fine (n : Nat) (rest : List Nat) (plan : s.resetPlan = (n + 1) :: rest)
      (result : t = State.fineStep { s with resetPlan := n :: rest })
  | tick (plan : s.resetPlan = []) (waiting : s.inputs = []) (result : t = s.tick)
  | instr (inp : Input) (rest : List Input) (plan : s.resetPlan = []) (waiting : s.inputs = inp :: rest)
      (result : exec (decode inp) { s with inputs := rest } = .next t)

theorem step_reset {s : State} {rest : List Nat} (h : s.resetPlan = 0 :: rest) :
    step s = .next (State.applyReset { s with resetPlan := rest }) := by
  simp only [step, h]

theorem step_fine {s : State} {n : Nat} {rest : List Nat} (h : s.resetPlan = (n + 1) :: rest) :
    step s = .next (State.fineStep { s with resetPlan := n :: rest }) := by
  simp only [step, h]

theorem step_tick {s : State} (h : s.resetPlan = []) (hw : s.inputs = []) : step s = .next s.tick := by
  simp only [step, h, hw]

theorem step_instr {s : State} {inp : Input} {rest : List Input} (h : s.resetPlan = [])
    (hw : s.inputs = inp :: rest) : step s = exec (decode inp) { s with inputs := rest } := by
  simp only [step, h, hw]

theorem step_cases {s t : State} (h : step s = .next t) : StepCase s t := by
  rcases hplan : s.resetPlan with - | ⟨- | n, rest⟩
  · rcases hwork : s.inputs with - | ⟨inp, rest⟩
    · rw [step_tick hplan hwork] at h
      exact .tick hplan hwork (Host.Outcome.next.inj h).symm
    · rw [step_instr hplan hwork] at h
      exact .instr inp rest hplan hwork h
  · rw [step_reset hplan] at h
    exact .reset rest hplan (Host.Outcome.next.inj h).symm
  · rw [step_fine hplan] at h
    exact .fine n rest hplan (Host.Outcome.next.inj h).symm

theorem step_answers_next (s : State) : ∃ t, step s = .next t := by
  rcases hplan : s.resetPlan with - | ⟨- | n, rest⟩
  · rcases hwork : s.inputs with - | ⟨inp, rest⟩
    · exact ⟨_, step_tick hplan hwork⟩
    · exact ⟨_, (step_instr hplan hwork).trans (exec_eq_next _ _)⟩
  · exact ⟨_, step_reset hplan⟩
  · exact ⟨_, step_fine hplan⟩

/-- Settles O37: every instruction is run by `perform`, which answers a next state. -/
theorem everyOperationCompletesNormally : Obligations.EveryOperationCompletesNormally :=
  ⟨fun i s => ⟨_, exec_eq_next i s⟩, step_answers_next, nofun⟩

/-- A busy block takes its next transition, whatever waits (R91). -/
theorem State.fineStep_busy {s : State} (h : s.busy = true) : s.fineStep = s.tick := by
  rw [State.fineStep, if_pos h]

/-- An idle block waits or accepts the next item (R91, R148). -/
theorem State.fineStep_idle {s : State} (h : s.busy = false) :
    s.inputs = [] ∧ s.fineStep = s ∨
      ∃ inp rest, s.inputs = inp :: rest ∧ s.fineStep = accept (decode inp) { s with inputs := rest } := by
  rcases hwork : s.inputs with - | ⟨inp, rest⟩
  · exact .inl ⟨rfl, by simp only [State.fineStep, h, hwork, Bool.false_eq_true, if_false]⟩
  · exact .inr ⟨inp, rest, rfl, by simp only [State.fineStep, h, hwork, Bool.false_eq_true, if_false]⟩

/-! ## The invariant -/

/-- Settles O32: the reset state rests at the idle levels with every counter at 0. -/
theorem resetMeetsTheInvariant : Obligations.ResetMeetsTheInvariant :=
  State.inv_of_idle rfl (by decide)

/-- The invariant does not speak of what waits on the ports or of the resets planned. -/
theorem State.inv_setQueues {s : State} (h : s.Inv) (inputs : List Input) (resetPlan : List Nat) :
    ({ s with inputs, resetPlan } : State).Inv := h

theorem State.inv_applyReset (s : State) : s.applyReset.Inv :=
  State.inv_setQueues resetMeetsTheInvariant s.inputs s.resetPlan

/-- An idle state that meets the invariant rests (R93). -/
theorem State.rested_of_idle {s : State} (h : s.SequencerOk) (hi : s.inProgress = none) : s.Rested := by
  simpa only [State.SequencerOk, hi] using h

/-- Accepting an instruction moves no line, so the levels stay in step with the history (R96). -/
theorem Accepted.levelsOk {s t : State} (h : Accepted s t) (hl : s.LevelsOk) : t.LevelsOk := by
  obtain ⟨es, hes, hset⟩ := h.history
  have hsame (l : Line) : levelAfter l t.history = levelAfter l s.history := by
    rw [hes, levelAfter, levelFrom_append, levelFrom_noSet _ _ hset, levelAfter]
  simpa only [State.LevelsOk, hsame, h.data, h.clock, h.fsync] using hl

/-- On a resting sequencer an acceptance leaves it resting, or at the first word of an operation (R90). -/
theorem Accepted.sequencerOk {s t : State} (h : Accepted s t) (hr : s.Rested) (hi : s.inProgress = none) :
    t.SequencerOk := by
  obtain ⟨hclock, hfsync, hbits, hwidx, hph⟩ := hr
  rcases h.started with ⟨hsame, hw⟩ | ⟨j, hj, hw⟩
  · simp [State.SequencerOk, State.Rested, h.clock, h.fsync, h.bitcnt, h.ph, *]
  · have hwords : 0 < j.words := j.words_range.1
    simp [State.SequencerOk, State.MidOperation, h.clock, h.bitcnt, h.ph, *]

theorem Accepted.inv {s t : State} (h : Accepted s t) (hs : s.Inv) (hi : s.inProgress = none) : t.Inv := by
  obtain ⟨hseq, hlevels, hreg, hcount⟩ := hs
  exact ⟨h.sequencerOk (State.rested_of_idle hseq hi) hi, h.levelsOk hlevels, h.register hreg, h.counters hcount⟩

/-! ### Completion -/

theorem State.levelsOk_transmit {s : State} (h : s.LevelsOk) (w : Word) : (s.transmit w).LevelsOk :=
  State.levelsOk_play h (transmission s.dbg w)

/-- The completion of an operation leaves the levels in step with the history (R96). -/
theorem State.levelsOk_complete {s : State} (h : s.LevelsOk) : s.complete.LevelsOk := by
  unfold State.complete
  split
  · exact h
  · exact State.levelsOk_transmit (State.levelsOk_transmit (State.levelsOk_transmit h _) _) _
  · exact State.levelsOk_transmit h _

/-- A completed operation leaves the block idle and the sequencer at rest (R90, R93). -/
theorem State.complete_rested {s : State} (h : s.SequencerOk) :
    s.complete.inProgress = none ∧ s.complete.Rested := by
  cases hj : s.inProgress with
  | none =>
    rw [State.complete_idle hj]
    exact ⟨hj, State.rested_of_idle h hj⟩
  | some j =>
    cases j with
    | encode =>
      rw [State.complete_encode hj]
      exact ⟨rfl, rfl, rfl, rfl, rfl, rfl⟩
    | single w =>
      rw [State.complete_single hj]
      exact ⟨rfl, rfl, rfl, rfl, rfl, rfl⟩

/-- The completion of an operation leaves REGV alone (R17). -/
theorem State.complete_regv (s : State) : s.complete.regv = s.regv := by
  unfold State.complete
  split <;> rfl

theorem State.inv_complete {s : State} (h : s.Inv) : s.complete.Inv := by
  obtain ⟨hseq, hlevels, hreg, hcount⟩ := h
  obtain ⟨hidle, hrest⟩ := State.complete_rested hseq
  have ran := s.complete_ran
  refine State.inv_of_idle hidle ⟨hrest, State.levelsOk_complete hlevels, ?_, ?_⟩
  · simpa only [State.RegisterOk, State.complete_regv] using hreg
  · simpa only [State.CountersOk, ran.ndig, ran.dmp, ran.divExp] using hcount

/-! ### Instructions, steps, runs -/

theorem exec_inv {i : Instr} {s t : State} (hs : s.Inv) (h : exec i s = .next t) : t.Inv := by
  have hidle := (State.busy_iff _).1 (State.busy_waitIdle hs)
  rw [eq_of_exec h]
  exact State.inv_complete ((accept_accepted i _).inv (State.inv_ticks hs _) hidle)

theorem State.inv_fineStep {s : State} (h : s.Inv) : s.fineStep.Inv := by
  cases hb : s.busy with
  | true =>
    rw [State.fineStep_busy hb]
    exact State.inv_tick h
  | false =>
    rcases State.fineStep_idle hb with ⟨-, hwait⟩ | ⟨inp, rest, -, haccept⟩
    · rw [hwait]
      exact h
    · rw [haccept]
      exact (accept_accepted _ _).inv (State.inv_setQueues h rest s.resetPlan) ((State.busy_iff s).1 hb)

/-- Settles O31, by the cases of a step: the reset state meets the invariant, and transitions, acceptances
and completions keep it. -/
theorem stepKeepsTheInvariant : Obligations.StepKeepsTheInvariant := by
  intro s t hs h
  cases step_cases h with
  | reset rest plan result => exact result ▸ State.inv_applyReset _
  | fine n rest plan result => exact result ▸ State.inv_fineStep (State.inv_setQueues hs s.inputs (n :: rest))
  | tick plan waiting result => exact result ▸ State.inv_tick hs
  | instr inp rest plan waiting result => exact exec_inv (State.inv_setQueues hs rest s.resetPlan) result

theorem inv_run {s t : State} {k : Nat} (hs : s.Inv) (h : core.run k s = .next t) : t.Inv := by
  induction k generalizing s with
  | zero => exact Host.Outcome.next.inj h ▸ hs
  | succ k ih =>
    obtain ⟨u, hu⟩ := step_answers_next s
    rw [run_succ hu] at h
    exact ih (stepKeepsTheInvariant s u hs hu) h

/-- Settles O33: the invariant holds along the run, and an idle state that meets it rests at the idle
levels. -/
theorem reachableIdleStatesHaveIdleLevels : Obligations.ReachableIdleStatesHaveIdleLevels := by
  intro s t k hs hrun hidle
  obtain ⟨hseq, ⟨hdata, hclock, hfsync⟩, -, -⟩ := inv_run hs hrun
  obtain ⟨hc, hf, -, -, -⟩ := State.rested_of_idle hseq ((State.busy_iff t).1 hidle)
  refine ⟨hc, hf, fun l => ?_⟩
  cases l with
  | data => exact hdata
  | clock => exact hclock
  | fsync => exact hfsync

/-! ## What instructions and steps leave alone -/

theorem Accepted.history_prefix {s t : State} (h : Accepted s t) : s.history <+: t.history := by
  obtain ⟨es, hes, -⟩ := h.history
  exact hes ▸ List.prefix_append _ _

theorem exec_history {i : Instr} {s t : State} (h : exec i s = .next t) : s.history <+: t.history := by
  rw [eq_of_exec h]
  exact ((State.ticks_ran _ s).history.trans (accept_accepted i _).history_prefix).trans
    (State.complete_ran _).history

theorem State.tick_history (s : State) : s.history <+: s.tick.history := (State.ticks_ran 1 s).history

theorem State.fineStep_history (s : State) : s.history <+: s.fineStep.history := by
  cases hb : s.busy with
  | true => exact State.fineStep_busy hb ▸ s.tick_history
  | false =>
    rcases State.fineStep_idle hb with ⟨-, hwait⟩ | ⟨inp, rest, -, haccept⟩
    · rw [hwait]
    · rw [haccept]
      exact (accept_accepted (decode inp) { s with inputs := rest }).history_prefix

/-- Settles O34, by the cases of a step: every one but the reset appends to the history. -/
theorem historyOnlyGrows : Obligations.HistoryOnlyGrows := by
  refine ⟨fun i s t h => exec_history h, fun s t hplan h => ?_⟩
  cases step_cases h with
  | reset rest plan result => exact absurd (by rw [plan]; rfl) hplan
  | fine n rest plan result => exact result ▸ State.fineStep_history { s with resetPlan := n :: rest }
  | tick plan waiting result => exact result ▸ s.tick_history
  | instr inp rest plan waiting result => exact exec_history (s := { s with inputs := rest }) result

/-- WF and DBG after an instruction are what its acceptance on the idle block makes of them. -/
theorem exec_wf_dbg {i : Instr} {s t : State} (h : exec i s = .next t) :
    t.wf = (accept i s.waitIdle).wf ∧ t.dbg = (accept i s.waitIdle).dbg := by
  rw [eq_of_exec h]
  exact ⟨(State.complete_ran _).wf, (State.complete_ran _).dbg⟩

theorem accept_wf (i : Instr) (s : State) :
    (accept i s).wf = s.wf ∨ (∃ c, i = .setwf c) ∨ ∃ l, i = .sineS l ∨ i = .triangleT l ∨ i = .rawN l := by
  cases i with
  | setwf c => exact .inr (.inl ⟨c, rfl⟩)
  | sineS l => exact .inr (.inr ⟨l, .inl rfl⟩)
  | triangleT l => exact .inr (.inr ⟨l, .inr (.inl rfl)⟩)
  | rawN l => exact .inr (.inr ⟨l, .inr (.inr rfl)⟩)
  | _ => exact .inl rfl

theorem acceptSetwf_dbg (c : BitVec 3) (s : State) : (acceptSetwf c s).dbg = s.dbg := by
  unfold acceptSetwf
  split <;> rfl

theorem accept_dbg (i : Instr) (s : State) :
    (accept i s).dbg = s.dbg ∨ (∃ b, i = .setdbg b) ∨ ∃ l, i = .debugZ l := by
  cases i with
  | setdbg b => exact .inr (.inl ⟨b, rfl⟩)
  | debugZ l => exact .inr (.inr ⟨l, rfl⟩)
  | setwf c => exact .inl (acceptSetwf_dbg c s)
  | _ => exact .inl rfl

/-- Settles O35: waiting and completing write neither register, and the acceptances that do are the ones
named. -/
theorem onlySetwfChangesTheWaveform : Obligations.OnlySetwfChangesTheWaveform := by
  intro i s t h
  obtain ⟨hwf, hdbg⟩ := exec_wf_dbg h
  have wait : Ran s s.waitIdle := State.ticks_ran _ s
  exact ⟨fun hne => (accept_wf i s.waitIdle).resolve_left fun hsame => hne ((hwf.trans hsame).trans wait.wf),
    fun hne => (accept_dbg i s.waitIdle).resolve_left fun hsame => hne ((hdbg.trans hsame).trans wait.dbg)⟩

/-! ### The host's registers under the block's operations -/

/-- The host's registers and the outside world's queues are in `t` as in `s` (R27). -/
structure HostKept (s t : State) : Prop where
  buf : t.buf = s.buf
  ndig : t.ndig = s.ndig
  dmp : t.dmp = s.dmp
  mult : t.mult = s.mult
  divExp : t.divExp = s.divExp
  echo : t.echo = s.echo
  inputs : t.inputs = s.inputs
  resetPlan : t.resetPlan = s.resetPlan

theorem HostKept.trans {s t u : State} (h : HostKept s t) (k : HostKept t u) : HostKept s u :=
  ⟨k.buf.trans h.buf, k.ndig.trans h.ndig, k.dmp.trans h.dmp, k.mult.trans h.mult,
    k.divExp.trans h.divExp, k.echo.trans h.echo, k.inputs.trans h.inputs, k.resetPlan.trans h.resetPlan⟩

theorem Ran.hostKept {s t : State} (h : Ran s t) : HostKept s t :=
  ⟨h.buf, h.ndig, h.dmp, h.mult, h.divExp, h.echo, h.inputs, h.resetPlan⟩

theorem acceptSetwf_hostKept (c : BitVec 3) (s : State) : HostKept s (acceptSetwf c s) := by
  unfold acceptSetwf
  split <;> exact ⟨rfl, rfl, rfl, rfl, rfl, rfl, rfl, rfl⟩

/-- An instruction that is no byte leaves the host alone when it is accepted (R27). -/
theorem accept_hostKept {i : Instr} (h : ∀ b, encode i ≠ .byte b) (s : State) : HostKept s (accept i s) := by
  cases i with
  | setwf c => exact acceptSetwf_hostKept c s
  | setdbg | encHz | encRaw | chipReset | tx16 | reservedOp6 | reservedOp7 | ctrlSine | ctrlTriangle
  | ctrlRectHalf | ctrlRect | ctrlReset | freq0Data | freq1Data | phaseData | ctrlOther =>
    exact ⟨rfl, rfl, rfl, rfl, rfl, rfl, rfl, rfl⟩
  | _ => exact absurd rfl (h _)

/-- Settles O36: waiting, acceptance and completion each leave the host's registers and the queues alone. -/
theorem blockOperationsLeaveTheHostAlone : Obligations.BlockOperationsLeaveTheHostAlone := by
  intro i s t hbyte h
  have kept : HostKept s (accept i s.waitIdle).complete :=
    ((State.ticks_ran _ s).hostKept.trans (accept_hostKept hbyte s.waitIdle)).trans
      (State.complete_ran _).hostKept
  rw [eq_of_exec h]
  exact ⟨kept.buf, kept.ndig, kept.dmp, kept.mult, kept.divExp, kept.echo, kept.inputs, kept.resetPlan⟩

end Sys2Proof.Machine
end

section
/-! The Register Encoder's operations (40_encoder.md R65 to R81): what each answers on an idle block, and the
words an ENC operation sends (30_encoding.md R48 to R52). -/

namespace Sys2Proof.Machine

/-! ## Operations that start no transmission -/

/-- The reserved waveform codes are the ones from 5 up (R54, R59). -/
theorem waveformOfCode_reserved {code : BitVec 3} (h : 5 ≤ code.toNat) : waveformOfCode code = none := by
  revert code
  decide

theorem accept_setwf_reserved {code : BitVec 3} (h : 5 ≤ code.toNat) (s : State) :
    accept (.setwf code) s = s := by
  change acceptSetwf code s = s
  rw [acceptSetwf, waveformOfCode_reserved h]

/-- Settles O7: the acceptance writes WF for a code with a waveform type and nothing for the others. -/
theorem setwfWritesWaveformOnly : Obligations.SetwfWritesWaveformOnly := by
  intro s hidle
  have hcode (code : BitVec 3) {t : Waveform} (hacc : accept (.setwf code) s = { s with wf := t }) :
      exec (.setwf code) s = .next { s with wf := t } := exec_eq_accept hidle hacc hidle
  exact ⟨hcode 0 rfl, hcode 1 rfl, hcode 2 rfl, hcode 3 rfl, hcode 4 rfl,
    fun code h => exec_eq_accept hidle (accept_setwf_reserved h s) hidle⟩

/-- Settles O8: the acceptance is the write to DBG. -/
theorem setdbgWritesDebugOnly : Obligations.SetdbgWritesDebugOnly := by
  intro s b hidle
  exact exec_eq_accept hidle rfl hidle

/-- Settles O9: the acceptance of a reserved operation is the state as it was. -/
theorem reservedOperationsChangeNothing : Obligations.ReservedOperationsChangeNothing := by
  intro s arg v hidle
  exact ⟨exec_eq_accept hidle rfl hidle, exec_eq_accept hidle rfl hidle, rfl, rfl⟩

/-! ## ENC operations on an idle block -/

/-- An instruction whose acceptance starts an ENC operation writes REGV and EWF and sends three words
(R67, R68, R75). -/
theorem exec_of_startEncode {i : Instr} {s t : State} {c : RegVal × Waveform} (h : s.inProgress = none)
    (hacc : accept i s = t.startEncode c) : exec i s = .next (t.encoded c.1 c.2) := by
  rw [exec_eq_perform, perform_idle h, hacc, State.complete_startEncode]

theorem exec_encHz_idle {s : State} (h : s.inProgress = none) (v : Rat) :
    exec (.encHz v) s = .next (s.encoded (computeHz s.wf v).1 (computeHz s.wf v).2) :=
  exec_of_startEncode h rfl

/-- Settles O11: the value is rounded and clamped as it stands, for every waveform type. -/
theorem encRawRoundsAndSendsThreeWords : Obligations.EncRawRoundsAndSendsThreeWords := by
  intro s v hidle
  have hrun : exec (.encRaw v) s = .next (s.encoded (computeRaw s.wf v).1 (computeRaw s.wf v).2) :=
    exec_of_startEncode hidle rfl
  rwa [computeRaw_eq] at hrun

theorem exec_encHz_half {s : State} (h : s.inProgress = none) {v : Rat}
    (hhalf : s.wf = .rect ∧ v < (Config.rectHalfLimit : Rat)) :
    exec (.encHz v) s = .next (s.encoded (regValueOf (2 * (v * Config.kconv))) .rectHalf) := by
  rw [exec_encHz_idle h, computeHz_eq, if_pos hhalf]

theorem exec_encHz_plain {s : State} (h : s.inProgress = none) {v : Rat}
    (hplain : ¬(s.wf = .rect ∧ v < (Config.rectHalfLimit : Rat))) :
    exec (.encHz v) s = .next (s.encoded (regValueOf (v * Config.kconv)) s.wf) := by
  rw [exec_encHz_idle h, computeHz_eq, if_neg hplain]

theorem exec_encHz_not_rect {s : State} (h : s.inProgress = none) (hwf : s.wf ≠ .rect) (v : Rat) :
    exec (.encHz v) s = .next (s.encoded (regValueOf (v * Config.kconv)) s.wf) :=
  exec_encHz_plain h fun hhalf => hwf hhalf.1

/-- Settles O10: the two cases of the half-frequency test. -/
theorem encHzConvertsAndSendsThreeWords : Obligations.EncHzConvertsAndSendsThreeWords :=
  fun _ _ hidle => ⟨exec_encHz_half hidle, exec_encHz_plain hidle⟩

@[simp] theorem State.encoded_history (s : State) (r : RegVal) (t : Waveform) :
    (s.encoded r t).history = s.history ++ transmissions s.dbg [lsbWord r, msbWord r, controlWord t] := rfl

/-- Settles O17: RESET_MIDSCALE takes no half-frequency adjustment, and its control word is 0x2100. -/
theorem encodeInResetMidscaleSendsResetWordLast : Obligations.EncodeInResetMidscaleSendsResetWordLast := by
  intro s v hidle hwf
  have hhz := exec_encHz_not_rect hidle (by rw [hwf]; decide) v
  have hraw := encRawRoundsAndSendsThreeWords s v hidle
  rw [hwf] at hhz hraw
  exact ⟨hhz, hraw⟩

/-! ## Rounding and the register value -/

/-- A tie goes away from zero (R72). -/
theorem abs_lt_abs_nearest {q : Rat} (h : |(nearest q : Rat) - q| = 1 / 2) : |q| < |(nearest q : Rat)| := by
  unfold nearest at h ⊢
  split at h
  case isTrue hpos =>
    have hlt := Int.lt_floor_add_one (q + 1 / 2)
    have hup : (⌊q + 1 / 2⌋ : Rat) = q + 1 / 2 := by
      rcases (abs_eq (by norm_num)).1 h with htie | htie <;> linarith
    rw [if_pos hpos, hup, abs_of_nonneg hpos, abs_of_nonneg (by linarith)]
    linarith
  case isFalse hneg =>
    have hlt := Int.lt_floor_add_one (-q + 1 / 2)
    push_cast at h
    have hup : (⌊-q + 1 / 2⌋ : Rat) = -q + 1 / 2 := by
      rcases (abs_eq (by norm_num)).1 h with htie | htie <;> linarith
    rw [if_neg hneg]
    push_cast
    rw [hup, abs_of_neg (not_le.1 hneg), abs_of_neg (by linarith)]
    linarith

/-- Settles O13: the integer formula is `nearest`, which is within one half and breaks a tie away from
zero. -/
theorem roundingIsToNearestTiesAway : Obligations.RoundingIsToNearestTiesAway := by
  intro q hden
  rw [Scaled.round_eq_nearest hden]
  exact ⟨abs_nearest_sub_le q.toRat, abs_lt_abs_nearest⟩

theorem toNat_regValueOf (q : Rat) : ((regValueOf q).toNat : Int) = clamp (nearest q) 0 Config.regMax :=
  toNat_ofClamp _

theorem regValueOf_mono {p q : Rat} (h : p ≤ q) : (regValueOf p).toNat ≤ (regValueOf q).toNat := by
  have hclamp : clamp (nearest p) 0 Config.regMax ≤ clamp (nearest q) 0 Config.regMax :=
    clamp_mono (nearest_mono h) (by decide)
  rw [← toNat_regValueOf, ← toNat_regValueOf] at hclamp
  exact_mod_cast hclamp

theorem regValueOf_of_gt {q : Rat} (h : (Config.regMax : Int) < nearest q) :
    (regValueOf q).toNat = Config.regMax := by
  exact_mod_cast (toNat_regValueOf q).trans (clamp_of_gt (by decide) h)

theorem nearest_nonneg {q : Rat} (h : 0 ≤ q) : 0 ≤ nearest q := by
  rw [le_nearest_iff h]
  push_cast
  linarith

theorem kconv_pos : 0 < Config.kconv := by norm_num [Config.kconv, Config.accBits, Config.fref]

theorem computeHz_not_rect {t : Waveform} (h : t ≠ .rect) (v : Rat) :
    computeHz t v = (regValueOf (v * Config.kconv), t) := by
  rw [computeHz_eq, if_neg fun hhalf => h hhalf.1]

/-- Settles O15: conversion by the positive KCONV, rounding and clamping are each monotone. -/
theorem registerValueIsMonotone : Obligations.RegisterValueIsMonotone := by
  intro t v w hle
  refine ⟨fun ht => ?_, ?_⟩
  · rw [computeHz_not_rect ht, computeHz_not_rect ht]
    exact regValueOf_mono (mul_le_mul_of_nonneg_right hle kconv_pos.le)
  · rw [computeRaw_eq, computeRaw_eq]
    exact regValueOf_mono hle

/-- From 6.25 MHz on, the doubled register value is past REG_MAX (R81). -/
theorem regValueOf_double_clamped {v : Rat} (h : 6250000 ≤ v) :
    regValueOf (2 * (v * Config.kconv)) = 0x7FFFFFF := by
  have hscaled : (0x8000000 : Rat) ≤ 2 * (v * Config.kconv) := by
    norm_num [Config.kconv, Config.accBits, Config.fref]
    linarith
  have hround : (Config.regMax : Int) < nearest (2 * (v * Config.kconv)) := by
    rw [← Int.add_one_le_iff, le_nearest_iff (by linarith)]
    norm_num [Config.regMax]
    linarith
  exact BitVec.eq_of_toNat_eq (regValueOf_of_gt hround)

/-- Settles O16: the range is past the clamp, and the integer formula is run on the two values at its
ends. -/
theorem rectangleFrom6250000To12000000IsClamped : Obligations.RectangleFrom6250000To12000000IsClamped := by
  intro s hidle hwf
  have hlow : computeHz .rect 6249999 = (0x7FFFFEB, .rectHalf) := by decide +kernel
  have hhigh : computeHz .rect 12000000 = (0x7AE147B, .rect) := by decide +kernel
  refine ⟨fun v hge hlt => ?_, ?_, ?_⟩
  · rw [exec_encHz_half hidle ⟨hwf, hlt⟩, regValueOf_double_clamped hge]
    rfl
  · rw [exec_encHz_idle hidle, hwf, hlow]
  · rw [exec_encHz_idle hidle, hwf, hhigh]

/-! ## The words of an ENC operation -/

/-- The low word is address 01 and the low half of the register value (R50). -/
theorem lsbWord_eq (r : RegVal) : lsbWord r = wireWord 1 (r.extractLsb' 0 14) := by
  apply BitVec.eq_of_getLsbD_eq
  intro i hi
  simp only [lsbWord, wireWord, BitVec.getLsbD_append, BitVec.getLsbD_extractLsb', BitVec.getLsbD_or,
    BitVec.getLsbD_setWidth, BitVec.getLsbD_and]
  interval_cases i <;> simp

/-- The high word is address 01 and the high half of the register value (R51). -/
theorem msbWord_eq (r : RegVal) : msbWord r = wireWord 1 (r.extractLsb' 14 14) := by
  apply BitVec.eq_of_getLsbD_eq
  intro i hi
  simp only [msbWord, wireWord, BitVec.getLsbD_append, BitVec.getLsbD_extractLsb', BitVec.getLsbD_or,
    BitVec.getLsbD_setWidth, BitVec.getLsbD_ushiftRight, BitVec.getLsbD_and]
  interval_cases i <;> simp

theorem and_payloadMask (a : BitVec 2) (p : Payload) : wireWord a p &&& 0x3FFF = p.setWidth 16 := by
  apply BitVec.eq_of_getLsbD_eq
  intro i hi
  simp only [wireWord, BitVec.getLsbD_append, BitVec.getLsbD_and, BitVec.getLsbD_setWidth]
  interval_cases i <;> simp

/-- The two halves of a register value make it up (R52). -/
theorem append_halves (r : RegVal) : r.extractLsb' 14 14 ++ r.extractLsb' 0 14 = r := by
  apply BitVec.eq_of_getLsbD_eq
  intro i hi
  simp only [BitVec.getLsbD_append, BitVec.getLsbD_extractLsb']
  by_cases h : i < 14
  · simp [h]
  · have h' : i - 14 < 14 := by omega
    simp [h, h', Nat.add_sub_cancel' (Nat.le_of_not_lt h)]

/-- The receiver's formula puts the payload of the low word below that of the high word (R52). -/
theorem recombine_wireWord (p q : Payload) : recombine (wireWord 1 p) (wireWord 1 q) = q ++ p := by
  rw [recombine, and_payloadMask, and_payloadMask]
  apply BitVec.eq_of_getLsbD_eq
  intro i hi
  simp only [BitVec.getLsbD_append, BitVec.getLsbD_or, BitVec.getLsbD_shiftLeft, BitVec.getLsbD_setWidth]
  interval_cases i <;> simp

theorem recombine_words (r : RegVal) : recombine (lsbWord r) (msbWord r) = r := by
  rw [lsbWord_eq, msbWord_eq, recombine_wireWord, append_halves]

/-- The value of a word under address 01 (R45). -/
theorem toNat_wireWord_one (p : Payload) : (wireWord 1 p).toNat = 0x4000 + p.toNat := by
  rw [wireWord, BitVec.toNat_append, ← Nat.shiftLeft_add_eq_or_of_lt p.isLt]
  rfl

/-- Settles O18: the fields of the two words, and the high half of a value up to REG_MAX below 0x2000. -/
theorem frequencyWordsRecombine : Obligations.FrequencyWordsRecombine := by
  intro r hle
  have hhigh : (r.extractLsb' 14 14).toNat ≤ 0x1FFF := by
    simp only [Config.regMax] at hle
    rw [BitVec.extractLsb'_toNat, Nat.shiftRight_eq_div_pow]
    omega
  have hmsb : (msbWord r).toNat = 0x4000 + (r.extractLsb' 14 14).toNat := by
    rw [msbWord_eq, toNat_wireWord_one]
  exact ⟨lsbWord_eq r, msbWord_eq r, by omega, by omega, recombine_words r⟩

/-- Settles O19: the words recombine to the register value, which is the rounded value or REG_MAX. -/
theorem sentFrequencyDecodesToRoundedValue : Obligations.SentFrequencyDecodesToRoundedValue := by
  intro s v hidle hwf hv
  refine ⟨_, _, _, _, exec_encHz_not_rect hidle hwf v, State.encoded_history s _ _, ?_, ?_⟩
  · intro hle
    rw [recombine_words, toNat_regValueOf]
    exact clamp_of_mem (nearest_nonneg (mul_nonneg hv kconv_pos.le)) hle
  · intro hge
    rw [recombine_words]
    exact regValueOf_of_gt (Int.lt_of_add_one_le hge)

theorem controlWord_exact (t : Waveform) : controlWord t ∈ exactControlWords := by
  cases t <;> decide

theorem addressOf_lsbWord (r : RegVal) : addressOf (lsbWord r) = 1 := by
  rw [lsbWord_eq, addressOf_wireWord]

theorem addressOf_msbWord (r : RegVal) : addressOf (msbWord r) = 1 := by
  rw [msbWord_eq, addressOf_wireWord]

/-- The words of an ENC operation are Freq0 words and one of the five control words (R32, R49). -/
theorem class_of_mem_encWords {r : RegVal} {t : Waveform} {w : Word} (h : w ∈ encWords r t) :
    addressOf w = 1 ∨ w ∈ exactControlWords := by
  simp only [encWords, List.mem_cons, List.not_mem_nil, or_false] at h
  rcases h with rfl | rfl | rfl
  · exact .inl (addressOf_lsbWord r)
  · exact .inl (addressOf_msbWord r)
  · exact .inr (controlWord_exact t)

/-- Settles O20: the three words of an ENC operation, and the reset word of CHIP_RESET. -/
theorem encoderReachesControlAndFreq0Only : Obligations.EncoderReachesControlAndFreq0Only := by
  intro s v i hidle hi
  rcases hi with rfl | rfl | rfl
  · exact ⟨_, _, exec_encHz_idle hidle v, State.encoded_history s _ _, fun w => class_of_mem_encWords⟩
  · exact ⟨_, _, encRawRoundsAndSendsThreeWords s v hidle, State.encoded_history s _ _,
      fun w => class_of_mem_encWords⟩
  · refine ⟨[resetWord], _, exec_chipReset_idle hidle, State.sent_history s _, fun w hw => .inr ?_⟩
    rw [List.mem_singleton.1 hw]
    decide

/-- Settles O59: the third word is the control word of EWF, which is WF but for the half-frequency case. -/
theorem controlWordsAreTheFiveLiterals : Obligations.ControlWordsAreTheFiveLiterals := by
  refine ⟨rfl, rfl, rfl, rfl, rfl, fun s v hidle p hp hwf => ?_⟩
  have hword : p.2 = controlWord p.1 := by
    simp only [List.mem_cons, List.not_mem_nil, or_false] at hp
    rcases hp with rfl | rfl | rfl | rfl | rfl <;> rfl
  rw [hword, ← hwf]
  refine ⟨⟨_, _, _, encRawRoundsAndSendsThreeWords s v hidle, State.encoded_history s _ _⟩, ?_⟩
  split
  case isTrue hhalf => exact ⟨_, _, _, exec_encHz_half hidle hhalf, State.encoded_history s _ _⟩
  case isFalse hplain => exact ⟨_, _, _, exec_encHz_plain hidle hplain, State.encoded_history s _ _⟩

end Sys2Proof.Machine
end

section
/-! The Bit-Link: the wire-word instructions, the events of a frame by their index, the receiver, and the
trace (41_bitlink.md R86 to R94; 30_encoding.md R56, R60). -/

namespace Sys2Proof.Machine

/-! ## Wire words (R56, R60) -/

/-- An instruction whose acceptance starts a single word sends that word and no other (R86). -/
theorem exec_of_startWord {i : Instr} {s t : State} {w : Word} (h : s.inProgress = none)
    (hacc : accept i s = t.start (.single w)) : exec i s = .next (t.sent [w]) := by
  rw [exec_eq_perform, perform_idle h, hacc, State.complete_start_single]

/-- Settles O23: each acceptance starts the instruction's own word. -/
theorem wireWordInstructionsSendTheirWord : Obligations.WireWordInstructionsSendTheirWord := by
  intro s p hidle
  have hsend {i : Instr} {w : Word} (hacc : accept i s = s.start (.single w)) :
      exec i s = .next (s.sent [w]) := exec_of_startWord hidle hacc
  exact ⟨hsend rfl, hsend rfl, hsend rfl, hsend rfl, hsend rfl, hsend rfl, hsend rfl, hsend rfl, hsend rfl⟩

/-- Whatever its class, a wire word is handed to the transmitter as it is (R60). -/
theorem accept_decodeWire (w : Word) (s : State) : accept (decodeWire w) s = s.start (.single w) := by
  rcases decodeWire_cases w with hmem | ⟨hd, h⟩ | ⟨hd, h⟩ | ⟨hd, h⟩ | ⟨hd, h, -⟩
  · simp only [exactControlWords, List.mem_cons, List.not_mem_nil, or_false] at hmem
    rcases hmem with rfl | rfl | rfl | rfl | rfl <;> rfl
  all_goals
    rw [hd, ← wireWord_payloadOf h, payloadOf_wireWord]
    rfl

/-- Settles O24: the decoded instruction and TX16 start the same word. -/
theorem wireWordsAreSentUnchanged : Obligations.WireWordsAreSentUnchanged := by
  intro s w hidle
  exact ⟨exec_of_startWord hidle (accept_decodeWire w s), exec_tx16_idle hidle w⟩

/-! ## A frame by its indices (R87) -/

/-- The event at index `k` of `n` bits sent from the highest down: every third one sets DATA (R87). -/
def bitEventAt (w : Word) (n k : Nat) : Event :=
  if k % 3 = 0 then .set .data (w.getLsbD (n - 1 - k / 3))
  else if k % 3 = 1 then .set .clock false
  else .set .clock true

theorem length_bitsEvents (w : Word) (n : Nat) : (bitsEvents w n).length = 3 * n := by
  induction n with
  | zero => rfl
  | succ n ih =>
    rw [bitsEvents, List.length_append, ih, bitEvents, List.length_cons, List.length_cons, List.length_cons,
      List.length_nil]
    omega

theorem bitEventAt_add_three (w : Word) (n k : Nat) : bitEventAt w (n + 1) (k + 3) = bitEventAt w n k := by
  have hindex : n + 1 - 1 - (k + 3) / 3 = n - 1 - k / 3 := by omega
  rw [bitEventAt, bitEventAt, Nat.add_mod_right, hindex]

theorem getElem?_bitsEvents (w : Word) {n k : Nat} (h : k < 3 * n) :
    (bitsEvents w n)[k]? = some (bitEventAt w n k) := by
  induction n generalizing k with
  | zero => omega
  | succ n ih =>
    match k with
    | 0 | 1 | 2 => rfl
    | k + 3 => rw [bitEventAt_add_three, ← ih (by omega)]; rfl

theorem length_frame (w : Word) : (frame w).length = 50 := by
  simp [frame, length_bitsEvents]

theorem getElem?_frame_bits (w : Word) {k : Nat} (h1 : 1 ≤ k) (h48 : k ≤ 48) :
    (frame w)[k]? = some (bitEventAt w 16 (k - 1)) := by
  obtain ⟨i, rfl⟩ := Nat.exists_eq_add_of_le' h1
  have hi : i < (bitsEvents w 16).length := by rw [length_bitsEvents]; omega
  rw [frame, List.getElem?_cons_succ, List.getElem?_append_left hi, Nat.add_sub_cancel,
    getElem?_bitsEvents w (by omega)]

theorem getElem?_frame_last (w : Word) : (frame w)[49]? = some (.set .fsync true) := by
  rw [frame, List.getElem?_cons_succ, List.getElem?_append_right (by rw [length_bitsEvents]),
    length_bitsEvents]
  rfl

theorem length_transmission (dbg : Bool) (w : Word) :
    (transmission dbg w).length = if dbg then 51 else 50 := by
  cases dbg <;> simp [transmission, traceEvents, length_frame]

/-- Settles O22: the counts of the events of a word, and the event at each index of its frame. -/
theorem frameHasFiftyEventsInOrder : Obligations.FrameHasFiftyEventsInOrder := by
  intro w
  refine ⟨rfl, rfl, length_frame w, rfl, getElem?_frame_last w, fun k => getElem?_frame_bits w, fun r t => ?_⟩
  refine ⟨?_, ?_, ?_, ?_⟩ <;> simp [encWords, length_transmission]

/-! ## The trace and the frame's shape (R92, R94) -/

theorem filter_isSet_frame (w : Word) : (frame w).filter Event.isSet = frame w := by
  rw [List.filter_eq_self]
  intro e he
  simp only [frame, bitsEvents_eq_flatMap, bitEvents, List.mem_cons, List.mem_append, List.mem_flatMap,
    List.not_mem_nil, or_false] at he
  rcases he with rfl | ⟨i, -, rfl | rfl | rfl⟩ | rfl <;> rfl

theorem filter_isSet_transmission (dbg : Bool) (w : Word) :
    (transmission dbg w).filter Event.isSet = frame w := by
  have htrace : (traceEvents dbg w).filter Event.isSet = [] := by cases dbg <;> rfl
  rw [transmission, List.filter_append, htrace, filter_isSet_frame, List.nil_append]

/-- Two frames agree at every index but those of DATA (R92). -/
theorem frame_shape (w w' : Word) (k : Nat) :
    (frame w)[k]? = (frame w')[k]? ∨
      ∃ b b', (frame w)[k]? = some (.set .data b) ∧ (frame w')[k]? = some (.set .data b') := by
  rcases Nat.eq_zero_or_pos k with rfl | hpos
  · exact .inl rfl
  rcases Nat.lt_or_ge k 49 with hlt | hge
  · rw [getElem?_frame_bits w hpos (by omega), getElem?_frame_bits w' hpos (by omega)]
    by_cases hdata : (k - 1) % 3 = 0
    · exact .inr ⟨_, _, congrArg some (if_pos hdata), congrArg some (if_pos hdata)⟩
    · exact .inl (by rw [bitEventAt, bitEventAt, if_neg hdata, if_neg hdata])
  · rcases hge.eq_or_lt with rfl | hgt
    · exact .inl (by rw [getElem?_frame_last, getElem?_frame_last])
    · have hnone (v : Word) : (frame v)[k]? = none := List.getElem?_eq_none (by rw [length_frame]; omega)
      exact .inl (by rw [hnone, hnone])

/-- Settles O26: the trace is no line set, and the frames of two words differ at the indices of DATA only. -/
theorem debugFlagAddsOnlyTheTrace : Obligations.DebugFlagAddsOnlyTheTrace := by
  refine ⟨fun dbg ws => ⟨?_, rfl, rfl⟩, frame_shape⟩
  rw [transmissions, List.filter_flatMap]
  simp only [filter_isSet_transmission]

/-! ## The receiver (R89) -/

/-- While FSYNC is low, a receiver on either edge takes the bit of each pulse (R89). -/
theorem observe_bitEvents (e : Edge) (b : Bool) {r : Receiver} (hc : r.clock = true) (hf : r.fsync = false) :
    (bitEvents b).foldl (Receiver.observe e) r = { r with data := b, bits := r.bits ++ [b] } := by
  cases e <;> simp [bitEvents, Receiver.observe, Edge.occurs, hc, hf]

/-- The bits of a word at the indices below `n`, highest first (R34). -/
def highBits (w : Word) (n : Nat) : List Bool := (List.range n).reverse.map w.getLsbD

theorem highBits_succ (w : Word) (n : Nat) : highBits w (n + 1) = w.getLsbD n :: highBits w n := by
  rw [highBits, List.range_succ, List.reverse_append, List.reverse_singleton, List.singleton_append,
    List.map_cons, highBits]

theorem length_highBits (w : Word) (n : Nat) : (highBits w n).length = n := by
  rw [highBits, List.length_map, List.length_reverse, List.length_range]

theorem observe_bitsEvents (e : Edge) (w : Word) (n : Nat) {r : Receiver} (hc : r.clock = true)
    (hf : r.fsync = false) :
    (bitsEvents w (n + 1)).foldl (Receiver.observe e) r =
      { r with data := w.getLsbD 0, bits := r.bits ++ highBits w (n + 1) } := by
  induction n generalizing r with
  | zero =>
    rw [bitsEvents, List.foldl_append, observe_bitEvents e _ hc hf]
    rfl
  | succ n ih =>
    rw [bitsEvents, List.foldl_append, observe_bitEvents e _ hc hf, ih (by exact hc) (by exact hf),
      highBits_succ w (n + 1), List.append_assoc, List.singleton_append]

/-- Shifting in the next lower bit of `w` uncovers it (R34). -/
theorem shift_in_bit (w : Word) (n : Nat) :
    (w >>> (n + 1)) <<< 1 ||| (if w.getLsbD n then 1 else 0) = w >>> n := by
  apply BitVec.eq_of_getLsbD_eq
  intro i hi
  cases i with
  | zero => cases h : w.getLsbD n <;> simp [h]
  | succ i =>
    have hindex : n + 1 + i = n + (i + 1) := by omega
    cases h : w.getLsbD n <;> simp [hindex] <;> omega

/-- The bits of a word, highest first, make up the word (R34). -/
theorem wordOfBits_highBits (w : Word) : wordOfBits (highBits w 16) = w := by
  have hfold : ∀ n, (highBits w n).foldl
      (fun (acc : Word) b => acc <<< 1 ||| (if b then 1 else 0)) (w >>> n) = w := by
    intro n
    induction n with
    | zero => exact BitVec.ushiftRight_zero w
    | succ n ih => rwa [highBits_succ, List.foldl_cons, shift_in_bit]
  have hall := hfold 16
  rwa [BitVec.ushiftRight_eq_zero (le_refl 16)] at hall

theorem observe_traceEvents (e : Edge) (dbg : Bool) (w : Word) (r : Receiver) :
    (traceEvents dbg w).foldl (Receiver.observe e) r = r := by
  cases dbg <;> rfl

/-- Settles O25: the receiver samples the sixteen bits between the two edges of FSYNC and puts them
together. -/
theorem receiverOnEitherEdgeCollectsTheWord : Obligations.ReceiverOnEitherEdgeCollectsTheWord := by
  intro e r dbg w hc hf
  rw [transmission, List.foldl_append, observe_traceEvents, frame, List.foldl_cons, List.foldl_append,
    observe_bitsEvents e w 15 (by exact hc) rfl]
  simp [Receiver.observe, length_highBits, wordOfBits_highBits, hc]

end Sys2Proof.Machine
end

section
/-! The documented host's bytes: the number being typed, what finalize makes of it, and the commands
(42_host_frontend.md R101 to R120). -/

namespace Sys2Proof.Machine

/-! ## Digits -/

theorem digitByte_printable (d : Digit) : 0x20 ≤ (0x30 + BitVec.ofNat 8 d : Byte) := by
  revert d
  decide

/-- A digit byte is echoed, shifts into BUF, counts up to 255, and cancels the scale factors (R101). -/
theorem State.digitByte_eq (d : Digit) (s : State) :
    s.digitByte d =
      { s with
        history := s.history ++ (if s.echo then [Event.echo (0x30 + BitVec.ofNat 8 d)] else [])
        buf :=
          if s.ndig = 0 then ⟨d, 0, 0, 0, 0, 0, 0, 0⟩
          else ⟨d, s.buf.d0, s.buf.d1, s.buf.d2, s.buf.d3, s.buf.d4, s.buf.d5, s.buf.d6⟩
        ndig := if s.ndig < 255 then s.ndig + 1 else 255
        mult := .one
        divExp := 0 } := by
  have hbuf : (if s.ndig = 0 then DigitBuffer.zero else s.buf).push d =
      if s.ndig = 0 then ⟨d, 0, 0, 0, 0, 0, 0, 0⟩
      else ⟨d, s.buf.d0, s.buf.d1, s.buf.d2, s.buf.d3, s.buf.d4, s.buf.d5, s.buf.d6⟩ :=
    apply_ite (DigitBuffer.push · d) _ _ _
  have hndig : min (s.ndig + 1) 255 = if s.ndig < 255 then s.ndig + 1 else 255 := by
    split <;> omega
  rw [State.digitByte, State.echoByte_printable (digitByte_printable d), State.onDigit, hbuf, hndig]

/-- Settles O38: each digit byte's acceptance is `digitByte` of its digit. -/
theorem digitShiftsIntoTheBuffer : Obligations.DigitShiftsIntoTheBuffer := by
  intro s hidle p hp
  have hacc : accept p.1 s = s.digitByte p.2 := by
    simp only [List.mem_cons, List.not_mem_nil, or_false] at hp
    rcases hp with rfl | rfl | rfl | rfl | rfl | rfl | rfl | rfl | rfl | rfl <;> rfl
  exact exec_eq_accept hidle (hacc.trans (s.digitByte_eq p.2)) hidle

/-! ## The finalized number -/

theorem State.finalExp_marked {s : State} (hd : s.dmp ≠ 0) (hn : s.ndig ≠ 0) :
    s.finalExp = s.ndig + 1 - s.dmp := if_pos ⟨hd, hn⟩

theorem State.finalExp_unmarked {s : State} (h : s.dmp = 0 ∨ s.ndig = 0) : s.finalExp = s.divExp :=
  if_neg fun ⟨hd, hn⟩ => h.elim hd hn

theorem State.finalExp_le {s : State} (h : s.CountersOk) : s.finalExp ≤ 255 :=
  ((accepted_finalize s).counters h).2.2

/-- The finalized value is an exact quotient (R104). -/
theorem State.finalValue_eq (s : State) :
    s.finalValue = ((s.buf.raw * s.mult.toNat : Nat) : Rat) / 10 ^ s.finalExp := by
  rw [State.finalValue, Rat.mkRat_eq_div]
  push_cast
  rfl

/-- Settles O41: the two cases of the exponent, which the invariant keeps from going below 0, and the
quotient. -/
theorem finalizeComputesTheValue : Obligations.FinalizeComputesTheValue := by
  intro s hinv
  obtain ⟨-, -, -, -, hdmp, -⟩ := hinv
  refine ⟨fun hd hn => ?_, State.finalExp_unmarked, ?_, rfl, rfl, rfl, rfl⟩
  · rw [State.finalize_divExp, State.finalExp_marked hd hn]
    omega
  · rw [State.finalValue_eq, State.div, State.finalize_divExp, DigitBuffer.raw]
    push_cast
    ring

theorem DigitBuffer.raw_le (b : DigitBuffer) : b.raw ≤ 99999999 := by
  have hdigit (d : Digit) : (d : Nat) ≤ 9 := Nat.le_of_lt_succ d.isLt
  have h0 := hdigit b.d0; have h1 := hdigit b.d1; have h2 := hdigit b.d2; have h3 := hdigit b.d3
  have h4 := hdigit b.d4; have h5 := hdigit b.d5; have h6 := hdigit b.d6; have h7 := hdigit b.d7
  rw [DigitBuffer.raw]
  omega

theorem Scale.toNat_le (m : Scale) : m.toNat ≤ 1000000 := by
  cases m <;> decide

/-- Settles O52: the numerator is at most 99,999,999 times 1,000,000, the denominator at least 1. -/
theorem finalizedValueIsInRange : Obligations.FinalizedValueIsInRange := by
  intro s hinv
  obtain ⟨-, -, -, hcount⟩ := hinv
  have hnum : s.buf.raw * s.mult.toNat ≤ 99999999 * 1000000 :=
    Nat.mul_le_mul s.buf.raw_le s.mult.toNat_le
  have hden : (1 : Rat) ≤ 10 ^ s.finalExp := one_le_pow₀ (by norm_num)
  rw [State.finalValue_eq]
  refine ⟨⟨_, _, State.finalExp_le hcount, rfl⟩, by positivity, ?_⟩
  calc ((s.buf.raw * s.mult.toNat : Nat) : Rat) / 10 ^ s.finalExp
      ≤ ((s.buf.raw * s.mult.toNat : Nat) : Rat) := div_le_self (Nat.cast_nonneg _) hden
    _ ≤ ((99999999 * 1000000 : Nat) : Rat) := Nat.cast_le.2 hnum
    _ = 99999999000000 := by norm_num

theorem State.finalValue_congr {s t : State} (hb : t.buf = s.buf) (hm : t.mult = s.mult)
    (he : t.finalExp = s.finalExp) : t.finalValue = s.finalValue := by
  rw [State.finalValue, State.finalValue, hb, hm, he]

/-- Settles O53: after a finalize NDIG is 0, so the exponent stays as that finalize left it. -/
theorem bareCommandReusesTheLastNumber : Obligations.BareCommandReusesTheLastNumber := by
  intro s
  refine ⟨State.finalValue_congr rfl rfl (State.finalExp_unmarked (.inr rfl)),
    State.finalValue_congr rfl rfl (State.finalExp_unmarked (.inr rfl)), fun b => ?_⟩
  exact State.finalValue_congr rfl rfl (State.finalExp_unmarked (.inr rfl))

/-! ## Commands -/

/-- Settles O42: the acceptance is the finalized state with one Help event. -/
theorem helpFinalizesAndEmitsTheText : Obligations.HelpFinalizesAndEmitsTheText := by
  intro s hidle
  refine ⟨exec_eq_accept hidle ?_ hidle, rfl⟩
  exact congrArg (State.play [.help]) (s.echo_finalize 0x3F (by decide))

theorem accept_echoE (lower : Bool) (s : State) :
    accept (.echoE lower) s =
      { s.finalized (letterByte 0x45 lower) with echo := decide (s.buf.d0 ≠ 0) } := by
  have hprint : 0x20 ≤ letterByte 0x45 lower := letterByte_printable (by decide) lower
  change ({ (s.echoByte _).finalize with echo := ((s.echoByte _).finalize).slotTruth } : State) = _
  rw [State.echo_finalize _ s hprint, State.slotTruth_eq_decide, State.finalized_buf]

/-- Settles O43: the acceptance finalizes and writes ECHO from slot 0, which finalize leaves alone. -/
theorem echoCommandReadsDigitSlotZero : Obligations.EchoCommandReadsDigitSlotZero := by
  intro s lower hidle
  exact exec_eq_accept hidle (accept_echoE lower s) hidle

theorem accept_rawN (lower : Bool) (s : State) :
    accept (.rawN lower) s =
      ((s.finalized (letterByte 0x4E lower)).setWaveform .sine).startEncode
        (computeRaw .sine s.finalValue) := by
  rw [← State.echo_finalize _ s (letterByte_printable (by decide) lower)]
  rfl

theorem accept_sineS (lower : Bool) (s : State) :
    accept (.sineS lower) s =
      ((s.finalized (letterByte 0x53 lower)).setWaveform .sine).startEncode
        (computeHz .sine s.finalValue) := by
  rw [← State.echo_finalize _ s (letterByte_printable (by decide) lower)]
  rfl

theorem accept_triangleT (lower : Bool) (s : State) :
    accept (.triangleT lower) s =
      ((s.finalized (letterByte 0x54 lower)).setWaveform .triangle).startEncode
        (computeHz .triangle s.finalValue) := by
  rw [← State.echo_finalize _ s (letterByte_printable (by decide) lower)]
  rfl

/-- Settles O44: the acceptance finalizes, sets WF and starts ENC_RAW of the finalized value. -/
theorem rawCommandSetsSineAndEncodesRaw : Obligations.RawCommandSetsSineAndEncodesRaw := by
  intro s lower hidle
  have hrun := exec_of_startEncode hidle (accept_rawN lower s)
  rw [computeRaw_eq] at hrun
  exact hrun

/-- Settles O45: the reset word is 0x2100. -/
theorem offCommandSendsResetWordOnly : Obligations.OffCommandSendsResetWordOnly :=
  fun _ lower hidle => exec_offO_idle hidle lower

/-- Settles O46: the acceptance finalizes, sets WF and starts ENC_HZ of the finalized value, which Sine
leaves unadjusted. -/
theorem sineCommandSetsSineAndEncodesHz : Obligations.SineCommandSetsSineAndEncodesHz := by
  intro s lower hidle
  have hrun := exec_of_startEncode hidle (accept_sineS lower s)
  rw [computeHz_not_rect (by decide)] at hrun
  exact hrun

/-- Settles O47: as S, with the waveform type Triangle. -/
theorem triangleCommandSetsTriangleAndEncodesHz : Obligations.TriangleCommandSetsTriangleAndEncodesHz := by
  intro s lower hidle
  have hrun := exec_of_startEncode hidle (accept_triangleT lower s)
  rw [computeHz_not_rect (by decide)] at hrun
  exact hrun

/-! ## What any byte can do -/

/-- The words of the operation a state is about to perform (R75, R79, R86). -/
def State.pendingWords (s : State) : List Word :=
  match s.inProgress with
  | none => []
  | some .encode => encWords s.regv s.ewf
  | some (.single w) => [w]

/-- Completion appends the transmissions of the operation's words (R75, R86). -/
theorem State.complete_history (s : State) :
    s.complete.history = s.history ++ transmissions s.dbg s.pendingWords := by
  rcases hj : s.inProgress with - | - | w
  · simp [State.complete_idle hj, State.pendingWords, hj]
  · rw [State.complete_encode hj, State.pendingWords, hj, State.sent_history]
  · rw [State.complete_single hj, State.pendingWords, hj, State.sent_history]

/-- `t` is what accepting the byte `b` can make of an idle `s`: the echo and at most the help text are
appended, WF is kept, Sine or Triangle, and at most an ENC operation or a reset word is started, DBG
then being as it was (R107, R108, R120). -/
structure ByteAccepted (b : Byte) (s t : State) : Prop where
  history : ∃ es, t.history = s.history ++ echoEvents s.echo b ++ es ∧ (es = [] ∨ es = [.help])
  wf : t.wf = s.wf ∨ t.wf = .sine ∨ t.wf = .triangle
  job : t.inProgress = none ∨
    t.dbg = s.dbg ∧ (t.inProgress = some .encode ∨ t.inProgress = some (.single resetWord))

/-- Accepting a byte, whatever it is (R107, R120). -/
theorem accept_byteAccepted {i : Instr} {b : Byte} (h : encode i = .byte b) {s : State}
    (hidle : s.inProgress = none) : ByteAccepted b s (accept i s) := by
  cases i with
  | digit0 | digit1 | digit2 | digit3 | digit4 | digit5 | digit6 | digit7 | digit8 | digit9 | point | echoE
  | kiloK | megaM | debugZ | otherByte =>
    cases h
    exact ⟨⟨[], (List.append_nil _).symm, .inl rfl⟩, .inl rfl, .inl hidle⟩
  | help =>
    cases h
    exact ⟨⟨[.help], rfl, .inr rfl⟩, .inl rfl, .inl hidle⟩
  | rawN | sineS =>
    cases h
    exact ⟨⟨[], (List.append_nil _).symm, .inl rfl⟩, .inr (.inl rfl), .inr ⟨rfl, .inl rfl⟩⟩
  | triangleT =>
    cases h
    exact ⟨⟨[], (List.append_nil _).symm, .inl rfl⟩, .inr (.inr rfl), .inr ⟨rfl, .inl rfl⟩⟩
  | offO =>
    cases h
    exact ⟨⟨[], (List.append_nil _).symm, .inl rfl⟩, .inl rfl, .inr ⟨rfl, .inr rfl⟩⟩
  | _ => cases h

/-- What a byte sends: Freq0 words and control words (R58, R120). -/
theorem ByteAccepted.address {b : Byte} {s t : State} (h : ByteAccepted b s t) {w : Word}
    (hw : w ∈ t.pendingWords) : addressOf w = 0 ∨ addressOf w = 1 := by
  rcases h.job with hnone | ⟨-, henc | hreset⟩
  · simp [State.pendingWords, hnone] at hw
  · rw [State.pendingWords, henc] at hw
    exact (class_of_mem_encWords hw).symm.imp_left addressOf_exactControlWord
  · rw [State.pendingWords, hreset, List.mem_singleton] at hw
    exact .inl (hw ▸ rfl)

/-- The words of a byte go out under the DBG the byte found. -/
theorem ByteAccepted.transmissions {b : Byte} {s t : State} (h : ByteAccepted b s t) :
    transmissions t.dbg t.pendingWords = transmissions s.dbg t.pendingWords := by
  rcases h.job with hnone | ⟨hdbg, -⟩
  · rw [State.pendingWords, hnone]
    rfl
  · rw [hdbg]

theorem exec_byte_idle {s : State} (h : s.inProgress = none) (b : Byte) :
    exec (decode (.byte b)) s = .next (accept (decodeByte b) s).complete := by
  rw [exec_eq_perform, perform_idle h]
  rfl

theorem echo_not_mem_transmissions (c : Byte) (dbg : Bool) (ws : List Word) :
    Event.echo c ∉ transmissions dbg ws := by
  intro hmem
  obtain ⟨w, -, hw⟩ := List.mem_flatMap.1 hmem
  exact ne_echo_of_mem_transmission hw c rfl

/-- Settles O50: the acceptance echoes first, and neither the help text nor a transmission echoes. -/
theorem everyPrintableByteIsEchoedFirst : Obligations.EveryPrintableByteIsEchoedFirst := by
  intro s b hidle
  have hacc := accept_byteAccepted (encode_decodeByte b) hidle
  obtain ⟨es, hes, hhelp⟩ := hacc.history
  refine ⟨_, es ++ transmissions (accept (decodeByte b) s).dbg (accept (decodeByte b) s).pendingWords,
    exec_byte_idle hidle b, ?_, fun c hmem => ?_⟩
  · rw [State.complete_history, hes, echoEvents_eq_ite, List.append_assoc]
  · rcases List.mem_append.1 hmem with hmem | hmem
    · rcases hhelp with rfl | rfl <;> simp at hmem
    · exact echo_not_mem_transmissions c _ _ hmem

/-- Settles O51: no acceptance of a byte sets WF to a Rectangle type, and what it starts sends Freq0 words
and control words only. -/
theorem hostNeverSelectsRectangle : Obligations.HostNeverSelectsRectangle := by
  intro s b hidle hrect hhalf
  have hacc := accept_byteAccepted (encode_decodeByte b) hidle
  obtain ⟨es, hes, hhelp⟩ := hacc.history
  have hwf : (accept (decodeByte b) s).complete.wf ≠ .rect ∧
      (accept (decodeByte b) s).complete.wf ≠ .rectHalf := by
    rw [(State.complete_ran _).wf]
    rcases hacc.wf with h | h | h
    · exact h ▸ ⟨hrect, hhalf⟩
    · rw [h]; decide
    · rw [h]; decide
  refine ⟨_, echoEvents s.echo b ++ es, _, exec_byte_idle hidle b, hwf.1, hwf.2, ?_, fun e he => ?_,
    fun w => hacc.address⟩
  · rw [State.complete_history, hes, hacc.transmissions, List.append_assoc s.history]
  · rcases List.mem_append.1 he with he | he
    · exact echoEvents_noSet _ _ e he
    · rcases hhelp with rfl | rfl
      · simp at he
      · rw [List.mem_singleton.1 he]; rfl

end Sys2Proof.Machine
end

section
/-! The sequencer performs the operation it accepts: fifty transitions are one word, and an operation's
transitions end where its completion does (41_bitlink.md R86, R90, R91). -/

namespace Sys2Proof.Machine

/-! ## One word -/

/-- The three transitions of a bit send the top bit of SR and shift it out (R90). -/
theorem State.ticks_bit {s : State} {j : Job} {n : Nat} (hj : s.inProgress = some j) (hf : s.fsync = false)
    (hp : s.ph = .dataPh) (hb : s.bitcnt = n + 1) :
    s.ticks 3 = { s.play (bitEvents (s.sr.getLsbD 15)) with sr := s.sr <<< 1, bitcnt := n } := by
  simp [State.ticks, State.tick, State.bitStep, State.play, bitEvents, levelStep, hj, hf, hp, hb]

theorem getLsbD_shifted (w : Word) {n : Nat} (h : n < 16) : (w <<< (15 - n)).getLsbD 15 = w.getLsbD n := by
  have hindex : 15 - (15 - n) = n := by omega
  have hge : 15 - n ≤ 15 := by omega
  rw [BitVec.getLsbD_shiftLeft, hindex]
  simp [hge]

/-- Where the transmitter comes to rest, it does not show what its registers were in between. -/
theorem State.play_restTransmitter (s : State) (es fs : List Event) (sr : Word) (bitcnt : Nat) (ph : Phase) :
    (({ s.play es with sr, bitcnt, ph } : State).play fs).restTransmitter =
      (s.play (es ++ fs)).restTransmitter := by
  rw [← State.play_play]
  rfl

theorem State.restTransmitter_of_rest {s : State} (hsr : s.sr = 0) (hb : s.bitcnt = 0) (hp : s.ph = .dataPh) :
    s.restTransmitter = s := by
  rw [State.restTransmitter, ← hsr, ← hb, ← hp]

/-- The transitions of `n` bits send the low `n` bits of the word `w`, whose higher bits SR has shifted
out already (R90). -/
theorem State.ticks_bits (w : Word) {s : State} {j : Job} {n : Nat} (hj : s.inProgress = some j)
    (hf : s.fsync = false) (hp : s.ph = .dataPh) (hb : s.bitcnt = n) (hn : n ≤ 16)
    (hsr : s.sr = w <<< (16 - n)) :
    s.ticks (3 * n) = (s.play (bitsEvents w n)).restTransmitter := by
  induction n generalizing s with
  | zero =>
    have hzero : s.sr = 0 := hsr.trans (BitVec.shiftLeft_eq_zero (le_refl 16))
    rw [bitsEvents, State.play_nil, State.restTransmitter_of_rest hzero hb hp]
    rfl
  | succ n ih =>
    have hsub : 16 - (n + 1) = 15 - n := by omega
    have hstep : 15 - n + 1 = 16 - n := by omega
    have hshift : s.sr <<< 1 = w <<< (16 - n) := by rw [hsr, hsub, ← BitVec.shiftLeft_add, hstep]
    have htop : s.sr.getLsbD 15 = w.getLsbD n := by rw [hsr, hsub, getLsbD_shifted w hn]
    rw [Nat.mul_succ, Nat.add_comm, State.ticks_add, State.ticks_bit hj hf hp hb, htop, hshift,
      ih (by exact hj) (by exact hf) (by exact hp) rfl (by omega) rfl, bitsEvents]
    exact State.play_restTransmitter s _ _ _ _ s.ph

theorem levelFrom_bitsEvents_fsync (w : Word) (n : Nat) (b : Bool) :
    levelFrom .fsync b (bitsEvents w n) = b := by
  induction n with
  | zero => rfl
  | succ n ih =>
    rw [bitsEvents, levelFrom_append]
    exact ih

/-- The events of a word but for the last, which raises FSYNC (R86). -/
def openFrame (dbg : Bool) (w : Word) : List Event :=
  traceEvents dbg w ++ .set .fsync false :: bitsEvents w 16

theorem transmission_eq_openFrame (dbg : Bool) (w : Word) :
    transmission dbg w = openFrame dbg w ++ [.set .fsync true] := by
  rw [transmission, frame, openFrame, List.append_assoc, List.cons_append]

theorem levelFrom_openFrame_fsync (b dbg : Bool) (w : Word) : levelFrom .fsync b (openFrame dbg w) = false := by
  rw [openFrame, levelFrom_append, levelFrom_cons, levelFrom_bitsEvents_fsync]
  rfl

/-- The load and the sixteen bits of the word the sequencer stands at (R90). -/
theorem State.ticks_openFrame {s : State} {j : Job} (hj : s.inProgress = some j) (hf : s.fsync = true)
    (hb : s.bitcnt = 0) :
    s.ticks 49 = (s.play (openFrame s.dbg (s.wordAt j s.widx))).restTransmitter := by
  have hload : s.ticks 1 = s.load j := State.tick_load hj hf hb
  have hlow : (s.load j).fsync = false := by
    rw [State.load, State.play_fsync, levelFrom_append]
    rfl
  have hbits := State.ticks_bits (s.wordAt j s.widx) (n := 16) (s := s.load j) hj hlow rfl rfl (le_refl 16)
    (BitVec.shiftLeft_zero _).symm
  rw [State.ticks_add 1 48, hload, hbits, openFrame, ← List.singleton_append, ← List.append_assoc]
  exact State.play_restTransmitter { s with sr := s.wordAt j s.widx, bitcnt := 16, ph := .dataPh } _ _ _ _ _

/-- Fifty transitions send the word the sequencer stands at and move it to the next word, or end the
operation (R86, R90). -/
theorem State.ticks_word {s : State} {j : Job} (hj : s.inProgress = some j) (hf : s.fsync = true)
    (hb : s.bitcnt = 0) :
    s.ticks 50 =
      if s.widx + 1 < j.words then { s.transmit (s.wordAt j s.widx) with widx := s.widx + 1 }
      else (s.transmit (s.wordAt j s.widx)).finish := by
  have hsend : s.transmit (s.wordAt j s.widx) =
      (s.play (openFrame s.dbg (s.wordAt j s.widx))).restTransmitter.play [.set .fsync true] := by
    rw [State.transmit, transmission_eq_openFrame, ← State.play_play]
    rfl
  rw [State.ticks_add 49 1, State.ticks_openFrame hj hf hb, hsend]
  exact State.tick_close (by exact hj) (levelFrom_openFrame_fsync _ _ _) rfl

/-! ## A whole operation -/

@[simp] theorem State.transmit_fsync (s : State) (w : Word) : (s.transmit w).fsync = true := by
  rw [State.transmit_eq]

theorem State.ticks_single {s : State} {w : Word} (hj : s.inProgress = some (.single w)) (hw : s.widx = 0)
    (hf : s.fsync = true) (hb : s.bitcnt = 0) : s.ticks 50 = s.complete := by
  rw [State.ticks_word hj hf hb, hw, State.complete, hj]
  rfl

theorem State.ticks_encode {s : State} (hj : s.inProgress = some .encode) (hw : s.widx = 0)
    (hf : s.fsync = true) (hb : s.bitcnt = 0) : s.ticks (50 + (50 + 50)) = s.complete := by
  have hfirst : s.ticks 50 = { s.transmit (lsbWord s.regv) with widx := 1 } := by
    rw [State.ticks_word hj hf hb, hw]
    rfl
  generalize ht : s.transmit (lsbWord s.regv) = t at hfirst
  have hsecond : ({ t with widx := 1 } : State).ticks 50 = { t.transmit (msbWord s.regv) with widx := 2 } := by
    subst ht
    rw [State.ticks_word (j := .encode) (by exact hj) (by exact State.transmit_fsync _ _) rfl]
    rfl
  generalize hu : t.transmit (msbWord s.regv) = u at hsecond
  have hthird : ({ u with widx := 2 } : State).ticks 50 = (u.transmit (controlWord s.ewf)).finish := by
    subst hu ht
    rw [State.ticks_word (j := .encode) (by exact hj) (by exact State.transmit_fsync _ _) rfl]
    rfl
  rw [State.ticks_add, State.ticks_add, hfirst, hsecond, hthird, State.complete, hj, ← hu, ← ht]
  rfl

/-- An operation at its first word ends, transition by transition, where its completion does (R90). -/
theorem State.ticks_remaining_start {s : State} {j : Job} (hj : s.inProgress = some j) (hw : s.widx = 0)
    (hf : s.fsync = true) (hb : s.bitcnt = 0) : s.ticks s.remaining = s.complete := by
  cases j with
  | single w =>
    have hcount : s.remaining = 50 := by simp [State.remaining, hj, Job.words, hf]
    rw [hcount, State.ticks_single hj hw hf hb]
  | encode =>
    have hcount : s.remaining = 50 + (50 + 50) := by simp [State.remaining, hj, Job.words, hf, hw]
    rw [hcount, State.ticks_encode hj hw hf hb]

/-- Accepted on an idle machine, an instruction ends, transition by transition, where its completion does
(R90). -/
theorem ticks_remaining_accept (i : Instr) {s : State} (h : s.SequencerOk) (hi : s.inProgress = none) :
    (accept i s).ticks (accept i s).remaining = (accept i s).complete := by
  have hacc := accept_accepted i s
  obtain ⟨-, hfsync, hbits, -, -⟩ := State.rested_of_idle h hi
  rcases hacc.started with ⟨hsame, -⟩ | ⟨j, hj, hw⟩
  · have hnone := hsame.trans hi
    rw [State.remaining_idle hnone, State.complete_idle hnone]
    rfl
  · exact State.ticks_remaining_start hj hw (hacc.fsync.trans hfsync) (hacc.bitcnt.trans hbits)

/-- Settles O27: an acceptance starts nothing or an operation at its first word. -/
theorem microStepsGiveTheWholeOperation : Obligations.MicroStepsGiveTheWholeOperation := by
  intro i s hinv hidle
  rw [exec_eq_perform, perform_idle hidle, ticks_remaining_accept i hinv.1 hidle]

/-! ## Transition by transition under a planned reset -/

/-- The same state with other resets planned. -/
def State.withPlan (plan : List Nat) (s : State) : State := { s with resetPlan := plan }

@[simp] theorem State.withPlan_ph (plan : List Nat) (s : State) : (s.withPlan plan).ph = s.ph := rfl

theorem acceptSetwf_withPlan (code : BitVec 3) (plan : List Nat) (s : State) :
    acceptSetwf code (s.withPlan plan) = (acceptSetwf code s).withPlan plan := by
  unfold acceptSetwf
  split <;> rfl

/-- No acceptance looks at the resets planned. -/
theorem accept_withPlan (i : Instr) (plan : List Nat) (s : State) :
    accept i (s.withPlan plan) = (accept i s).withPlan plan := by
  cases i with
  | setwf code => exact acceptSetwf_withPlan code plan s
  | _ => rfl

theorem State.close_withPlan (j : Job) (plan : List Nat) (s : State) :
    (s.withPlan plan).close j = (s.close j).withPlan plan := by
  simp only [State.close, apply_ite (State.withPlan plan)]
  rfl

theorem State.bitStep_withPlan (plan : List Nat) (s : State) :
    (s.withPlan plan).bitStep = s.bitStep.withPlan plan := by
  simp only [State.bitStep, State.withPlan_ph]
  cases s.ph <;> rfl

/-- No transition looks at the resets planned. -/
theorem State.tick_withPlan (plan : List Nat) (s : State) : (s.withPlan plan).tick = s.tick.withPlan plan := by
  cases hj : s.inProgress with
  | none => rw [State.tick_idle (s := s.withPlan plan) hj, State.tick_idle hj]
  | some j =>
    cases hf : s.fsync with
    | true =>
      by_cases hb : s.bitcnt = 0
      · rw [State.tick_load (s := s.withPlan plan) hj hf hb, State.tick_load hj hf hb]
        rfl
      · simp [State.tick, State.withPlan, hj, hf, hb]
    | false =>
      by_cases hb : s.bitcnt = 0
      · rw [State.tick_close (s := s.withPlan plan) hj hf hb, State.tick_close hj hf hb, State.close_withPlan]
      · rw [State.tick_bit (s := s.withPlan plan) hj hf hb, State.tick_bit hj hf hb, State.bitStep_withPlan]

/-- While the block is busy and the reset is further off, each step is one transition (R91). -/
theorem run_busy {s : State} {m n : Nat} (hbusy : ∀ k < m, (s.ticks k).busy = true) (hn : m ≤ n) :
    core.run m (s.withPlan [n]) = .next ((s.ticks m).withPlan [n - m]) := by
  induction m generalizing s n with
  | zero => rfl
  | succ m ih =>
    obtain ⟨n, rfl⟩ := Nat.exists_eq_add_of_le' (Nat.one_le_of_lt hn)
    have htick : (s.withPlan [n]).fineStep = s.tick.withPlan [n] :=
      (State.fineStep_busy (by exact hbusy 0 m.succ_pos)).trans (s.tick_withPlan [n])
    have hfirst : step (s.withPlan [n + 1]) = .next (s.tick.withPlan [n]) :=
      (step_fine rfl).trans (congrArg Host.Outcome.next htick)
    rw [run_succ hfirst, ih (fun k hk => hbusy (k + 1) (Nat.succ_lt_succ hk)) (Nat.le_of_succ_le_succ hn),
      Nat.add_sub_add_right]
    rfl

/-- With the reset not due at once, an idle machine's next step accepts the waiting item (R91). -/
theorem step_accepts {s : State} {inp : Input} {rest : List Input} {n : Nat} (hidle : s.inProgress = none)
    (hwork : s.inputs = inp :: rest) :
    step (s.withPlan [n + 1]) = .next ((accept (decode inp) { s with inputs := rest }).withPlan [n]) := by
  have hbusy : (s.withPlan [n]).busy = false := (State.busy_iff _).2 hidle
  have haccept : (s.withPlan [n]).fineStep = accept (decode inp) ({ s with inputs := rest }.withPlan [n]) := by
    rcases State.fineStep_idle hbusy with ⟨hnone, -⟩ | ⟨inp', rest', hsome, hfine⟩
    · exact absurd (hwork.symm.trans hnone) (List.cons_ne_nil _ _)
    · obtain ⟨rfl, rfl⟩ := List.cons.inj (hwork.symm.trans hsome)
      exact hfine
  rw [← accept_withPlan, ← haccept]
  exact step_fine rfl

/-- Settles O28: the first step of the run accepts the item, each further one is a transition of the
operation, and these end in the state the whole operation answers. -/
theorem stepByStepRunAgreesWithWholeOperation : Obligations.StepByStepRunAgreesWithWholeOperation := by
  intro s inp rest n hinv hidle hwork hplan hn
  have hinv' : ({ s with inputs := rest } : State).Inv := State.inv_setQueues hinv rest s.resetPlan
  have hanswer := microStepsGiveTheWholeOperation (decode inp) { s with inputs := rest } hinv' hidle
  refine ⟨_, (step_instr hplan hwork).trans hanswer, ?_⟩
  generalize ht : accept (decode inp) { s with inputs := rest } = t at hn ⊢
  have htinv : t.Inv := ht ▸ (accept_accepted _ _).inv hinv' hidle
  obtain ⟨-, -, hbusy, -⟩ := operationTakesItsRemainingTransitions t htinv
  obtain ⟨n, rfl⟩ := Nat.exists_eq_add_of_le' (Nat.le_of_add_right_le hn)
  have hfirst : step (s.withPlan [n + 1]) = .next (t.withPlan [n]) := ht ▸ step_accepts hidle hwork
  rw [Nat.add_comm 1, Nat.add_sub_add_right]
  exact (run_succ hfirst).trans (run_busy hbusy (by omega))

end Sys2Proof.Machine
end

section
/-! The step, the reset, and what the words sent let one say of the chip (40_encoder.md R83;
70_reset_and_hazards.md R145 to R159; 20_memory.md R33, R38). -/

namespace Sys2Proof.Machine

/-! ## The step and the reset -/

/-- A bare table word stands for a port item that decodes to its instruction (log entry 16). -/
theorem tableInput_of_decodeTableWord {nbits w : Nat} {i : Instr} (h : decodeTableWord nbits w = some i) :
    ∃ inp, tableInput nbits w = some inp ∧ decode inp = i :=
  Option.map_eq_some_iff.1 h

/-- Settles O54: the cases of a step with no reset due, the placed word being the first item that waits. -/
theorem stepRunsTheDecodedInstruction : Obligations.StepRunsTheDecodedInstruction := by
  refine ⟨fun s inp rest => step_instr, fun s => step_tick, fun s hplan hwork hidle => ?_,
    fun s nbits w i h => ?_⟩
  · rw [step_tick hplan hwork, State.tick_idle hidle]
  · obtain ⟨inp, hinp, rfl⟩ := tableInput_of_decodeTableWord h
    have hplaced : s.withFetchWord nbits w = { s with inputs := inp :: s.inputs, resetPlan := [] } := by
      rw [State.withFetchWord, hinp]
    rw [hplaced]
    exact step_instr rfl rfl

/-- Settles O55, field by field. -/
theorem resetGivesTheDocumentedValues : Obligations.ResetGivesTheDocumentedValues :=
  ⟨rfl, rfl, rfl, rfl, rfl, rfl, rfl, rfl, rfl, rfl, rfl, rfl, rfl, rfl, rfl, rfl⟩

/-- Settles O56: at 0 the step is the reset; before it, on a busy block, one transition, which appends at
most two events. -/
theorem resetInputActsAtOnceEvenMidFrame : Obligations.ResetInputActsAtOnceEvenMidFrame := by
  refine ⟨fun s rest hplan => step_reset hplan, fun s n rest hplan hbusy => ?_⟩
  have hticked := State.tick_ticked { s with resetPlan := n :: rest }
  obtain ⟨es, hes, hlen, -⟩ := hticked.played
  refine ⟨_, es, (step_fine hplan).trans (congrArg Host.Outcome.next (State.fineStep_busy ?_)), hes, hlen,
    hticked.resetPlan⟩
  exact hbusy

/-! ## What is known of the chip (R33, R38, R155, R156, R159) -/

theorem decodeWire_lsbWord (r : RegVal) : decodeWire (lsbWord r) = .freq0Data (r.extractLsb' 0 14) := by
  rw [decodeWire_address1 (addressOf_lsbWord r), lsbWord_eq, payloadOf_wireWord]

theorem decodeWire_msbWord (r : RegVal) : decodeWire (msbWord r) = .freq0Data (r.extractLsb' 14 14) := by
  rw [decodeWire_address1 (addressOf_msbWord r), msbWord_eq, payloadOf_wireWord]

theorem ChipView.word_lsbWord (v : ChipView) (r : RegVal) :
    v.word (lsbWord r) = v.freq0 (r.extractLsb' 0 14) := by
  rw [ChipView.word, decodeWire_lsbWord]

theorem ChipView.word_msbWord (v : ChipView) (r : RegVal) :
    v.word (msbWord r) = v.freq0 (r.extractLsb' 14 14) := by
  rw [ChipView.word, decodeWire_msbWord]

theorem ChipView.word_controlWord (v : ChipView) (t : Waveform) :
    v.word (controlWord t) = v.control (t == .resetMidscale) := by
  cases t <;> rfl

theorem ChipView.word_resetWord (v : ChipView) : v.word resetWord = v.control true := rfl

/-- B28 mode is on and the next Freq0 word is a low half: the view in which an ENC operation loads its
frequency (R38, R156). -/
def ChipView.Ready (v : ChipView) : Prop := v.b28 = some true ∧ v.pairing = .aligned

/-- In B28 mode a low half leaves the view waiting for its partner (R38). -/
theorem ChipView.freq0_low {v : ChipView} (h : v.Ready) (p : Payload) :
    v.freq0 p = { v with pairing := .half p } := by
  obtain ⟨hb, hp⟩ := h
  simp only [ChipView.freq0, hb, hp, if_true]

/-- The high half latches the frequency and aligns the pairing (R33 (c), R38). -/
theorem ChipView.freq0_high {v : ChipView} {l : Payload} (hb : v.b28 = some true) (hp : v.pairing = .half l)
    (p : Payload) : v.freq0 p = { v with pairing := .aligned, frequency := some (p ++ l) } := by
  simp only [ChipView.freq0, hb, hp, if_true]

theorem ChipView.freq0_not_b28 {v : ChipView} (h : v.b28 = none) (p : Payload) :
    v.freq0 p = { v with pairing := .unknown, frequency := none } := by
  simp only [ChipView.freq0, h, reduceCtorEq, if_false]

theorem ChipView.control_aligned {v : ChipView} (h : v.pairing = .aligned) (b : Bool) :
    v.control b = { v with inReset := some b, b28 := some true } := by
  simp only [ChipView.control, h, if_true]

/-- The two frequency words latch the register value (R33 (c), R52). -/
theorem ChipView.word_frequencyWords {v : ChipView} (h : v.Ready) (r : RegVal) :
    (v.word (lsbWord r)).word (msbWord r) = { v with pairing := .aligned, frequency := some r } := by
  rw [ChipView.word_lsbWord, ChipView.freq0_low h, ChipView.word_msbWord, ChipView.freq0_high (by exact h.1) rfl,
    append_halves]

/-- The three words of an ENC operation (R33, R38, R159). -/
theorem ChipView.foldl_encWords {v : ChipView} (h : v.Ready) (r : RegVal) (t : Waveform) :
    (encWords r t).foldl ChipView.word v =
      { inReset := some (t == .resetMidscale), b28 := some true, pairing := .aligned, frequency := some r } := by
  rw [encWords, List.foldl_cons, List.foldl_cons, List.foldl_cons, List.foldl_nil,
    ChipView.word_frequencyWords h, ChipView.word_controlWord, ChipView.control_aligned rfl]

/-- Before B28 mode is known to be on, nothing is known of the frequency (R156). -/
theorem ChipView.foldl_encWords_not_b28 {v : ChipView} (h : v.b28 = none) (r : RegVal) (t : Waveform) :
    (encWords r t).foldl ChipView.word v =
      { inReset := some (t == .resetMidscale), b28 := some true, pairing := .unknown, frequency := none } := by
  rw [encWords, List.foldl_cons, List.foldl_cons, List.foldl_cons, List.foldl_nil,
    ChipView.word_lsbWord, ChipView.freq0_not_b28 h, ChipView.word_msbWord, ChipView.freq0_not_b28 (by exact h),
    ChipView.word_controlWord]
  rfl

theorem ChipView.ready_resetWord {v : ChipView} (h : v.pairing = .aligned) : (v.word resetWord).Ready := by
  rw [ChipView.word_resetWord, ChipView.control_aligned h]
  exact ⟨rfl, h⟩

/-- Settles O57: the reset word makes the view ready, and without it B28 mode is not known. -/
theorem chipLatchesTheEncodedFrequency : Obligations.ChipLatchesTheEncodedFrequency := by
  refine ⟨fun v r t hb hp => ChipView.foldl_encWords ⟨hb, hp⟩ r t,
    fun r t => ChipView.foldl_encWords (ChipView.ready_resetWord rfl) r t, fun r t => ?_⟩
  rw [chipView, ChipView.foldl_encWords_not_b28 rfl]
  exact ⟨rfl, rfl⟩

/-! ## The duties toward the chip (R154 to R156) -/

theorem keepsPairing_append (v : ChipView) (ws ws' : List Word) :
    keepsPairing v (ws ++ ws') = (keepsPairing v ws && keepsPairing (ws.foldl ChipView.word v) ws') := by
  induction ws generalizing v with
  | nil => rfl
  | cons w ws ih => rw [List.cons_append, keepsPairing, ih, keepsPairing, List.foldl_cons, Bool.and_assoc]

/-- The words of an ENC operation, or of CHIP_RESET. -/
def opWords : Option (RegVal × Waveform) → List Word
  | some (r, t) => encWords r t
  | none => [resetWord]

/-- From a ready view an operation keeps the pairing known, and leaves the view ready (R158). -/
theorem keepsPairing_opWords {v : ChipView} (h : v.Ready) (o : Option (RegVal × Waveform)) :
    keepsPairing v (opWords o) = true ∧ ((opWords o).foldl ChipView.word v).Ready := by
  rcases o with - | ⟨r, t⟩
  · have hready := ChipView.ready_resetWord h.2
    refine ⟨?_, hready⟩
    rw [opWords, keepsPairing, hready.2]
    rfl
  · refine ⟨?_, by rw [opWords, ChipView.foldl_encWords h]; exact ⟨rfl, rfl⟩⟩
    rw [opWords, encWords, keepsPairing, keepsPairing, keepsPairing, keepsPairing,
      ChipView.word_frequencyWords h, ChipView.word_lsbWord, ChipView.freq0_low h,
      ChipView.word_controlWord, ChipView.control_aligned rfl]
    rfl

theorem keepsPairing_ops {v : ChipView} (h : v.Ready) (ops : List (Option (RegVal × Waveform))) :
    keepsPairing v (ops.flatMap opWords) = true := by
  induction ops generalizing v with
  | nil => rfl
  | cons o ops ih =>
    obtain ⟨hkeeps, hready⟩ := keepsPairing_opWords h o
    rw [List.flatMap_cons, keepsPairing_append, hkeeps, ih hready, Bool.and_true]

/-- Settles O58: the first reset word makes the view ready, and each operation leaves it so. -/
theorem encodeKeepsTheHostDuties : Obligations.EncodeKeepsTheHostDuties := by
  intro ops
  exact keepsPairing_ops (ChipView.ready_resetWord (v := .powerUp) rfl) ops

end Sys2Proof.Machine
end
